-- ==== Sys2Proof/Word.lean ====
section
/-! DEFINITION. The widths the machine's values have, and nothing else. Byte order, sign extension and bit-field
helpers stand in Decode.lean and under Machine/. -/

namespace Sys2Proof

/-- One byte of memory or of an instruction (R31). -/
abbrev Byte := BitVec 8

/-- A 16-bit field of the x87 state or of a segment register (R22, R30). -/
abbrev Word16 := BitVec 16

/-- A 32-bit register or field: EAX, EDX, MXCSR, a limit (R11, R24). -/
abbrev Word32 := BitVec 32

/-- A 64-bit register, mask or linear address (R6, R15). -/
abbrev Word64 := BitVec 64

end Sys2Proof
end

