-- ==== Sys2Proof/Config.lean ====
section
/-! DEFINITION. What an implementation fixes: the parameters of R5 (CPUID values, the writable MXCSR bits, the initial
configurations, the legacy layout, the #AC choice) as ONE record of plain data. State holds the record and no step writes it, so every
statement "for every state" is a statement for every implementation (log entry 1). -/

namespace Sys2Proof

/-- The x87 state, component 0, field by field (R22; the layout is the spec's general knowledge, D4). -/
structure X87 where
  /-- control word -/
  fcw : Word16
  /-- status word; bits 13:11 are TOP -/
  fsw : Word16
  /-- tag word, two bits for each physical register -/
  ftw : Word16
  /-- last opcode -/
  fop : BitVec 11
  /-- last instruction pointer: offset and selector -/
  fip : Word64
  fcs : Word16
  /-- last data pointer: offset and selector -/
  fdp : Word64
  fds : Word16
  /-- ST(0) to ST(7) in stack order; MM0 to MM7 are the low halves of the same storage -/
  st : Vector (BitVec 80) 8
  deriving DecidableEq, Repr

/-- What CPUID leaf 0DH and the implementation say about one state component i, 2 <= i <= 62 (R5, R18, R26). -/
structure ExtComponent where
  /-- OFFSET(i): CPUID.(EAX=0DH,ECX=i):EBX, the standard-form offset -/
  offset : Nat
  /-- SIZE(i): CPUID.(EAX=0DH,ECX=i):EAX, the size in bytes -/
  size : Nat
  /-- ALIGN64(i): whether the compacted offset is rounded up to a multiple of 64 (R45, D6) -/
  align64 : Bool
  /-- INIT(i): the image of the initial configuration (R103, D20) -/
  init : List Byte
  deriving DecidableEq, Repr

/-- A component the implementation does not have: no bytes. -/
def ExtComponent.absent : ExtComponent := { offset := 0, size := 0, align64 := false, init := [] }

/-- A byte range of the XSAVE area: `length` bytes from `offset` on. -/
structure ByteRange where
  offset : Nat
  length : Nat
  deriving DecidableEq, Repr

/-- LEGACY_LAYOUT: the byte range of each field that XRSTOR reads in the legacy region (R5, R43, D4). A field that is
narrower than its range is its low bits; one that is wider is zero-extended (log entry 28). -/
structure LegacyLayout where
  fcw : ByteRange
  fsw : ByteRange
  /-- the abridged tag word, 8 bits -/
  ftw : ByteRange
  fop : ByteRange
  /-- what XRSTOR reads as the last instruction and data pointers (REX.W = 0) -/
  fip : ByteRange
  fcs : ByteRange
  fdp : ByteRange
  fds : ByteRange
  /-- what XRSTOR64 reads as the last instruction and data pointers (REX.W = 1) -/
  fip64 : ByteRange
  fdp64 : ByteRange
  /-- ST(0) to ST(7), in stack order -/
  st : Vector ByteRange 8
  /-- the extent of the x87 image: ranges accessed with it whose other bytes are ignored (R43, R49) -/
  x87Extent : List ByteRange
  mxcsr : ByteRange
  /-- XMM0 to XMM15 -/
  xmm : Vector ByteRange 16
  deriving DecidableEq, Repr

/-- The default of R43, the FXSAVE image: the spec's general knowledge, decision D4 (log entry 11). -/
def fxsaveLayout : LegacyLayout :=
  { fcw := { offset := 0, length := 2 }
    fsw := { offset := 2, length := 2 }
    ftw := { offset := 4, length := 1 }
    fop := { offset := 6, length := 2 }
    fip := { offset := 8, length := 4 }
    fcs := { offset := 12, length := 2 }
    fdp := { offset := 16, length := 4 }
    fds := { offset := 20, length := 2 }
    fip64 := { offset := 8, length := 8 }
    fdp64 := { offset := 16, length := 8 }
    st := Vector.ofFn (fun k => { offset := 32 + 16 * k.val, length := 10 })
    x87Extent := [{ offset := 0, length := 24 }, { offset := 32, length := 128 }]
    mxcsr := { offset := 24, length := 4 }
    xmm := Vector.ofFn (fun j => { offset := 160 + 16 * j.val, length := 16 }) }

/-- The ranges of the x87 image: every field either form reads, and the extent (R43, R49). -/
def LegacyLayout.x87 (l : LegacyLayout) : List ByteRange :=
  [l.fcw, l.fsw, l.ftw, l.fop, l.fip, l.fcs, l.fdp, l.fds, l.fip64, l.fdp64] ++ l.st.toList ++ l.x87Extent

/-- The configuration record of R5. -/
structure Platform where
  /-- CPUID.01H:ECX.XSAVE[bit 26] (R18, R120) -/
  cpuidXsave : Bool
  /-- CPUID.(EAX=0DH,ECX=1):EAX.XSAVEC[bit 1] (R18, R132) -/
  cpuidXsavec : Bool
  /-- OFFSET, SIZE, ALIGN64 and INIT of the components 2 to 62; entry k stands for component k + 2 -/
  exts : Vector ExtComponent 61
  /-- X87_INIT (R22, D20) -/
  x87Init : X87
  /-- MXCSR_MASK: 1 in every writable bit of MXCSR (R24, D7) -/
  mxcsrMask : Word32
  /-- LEGACY_LAYOUT: where the legacy region holds each field (R5, R43, D4) -/
  layout : LegacyLayout
  /-- AC_CHOICE: bit m says that a misalignment of m bytes signals #AC where #AC is allowed (R5, R130, D12) -/
  acChoice : Word64
  /-- XCR0_SUPPORTED: the bits XCR0 may ever hold (R5, D19) -/
  xcr0Supported : Word64
  /-- VA_BITS: the width of a canonical linear address (R5, D25) -/
  vaBits : Nat
  /-- which of several faulting bytes of one image the implementation reads first (R50: the order is unspecified) -/
  readOrder : Nat
  deriving DecidableEq, Repr

/-- The CPUID and initial-configuration values of state component `i`; for an `i` outside 2 to 62 nothing is there. -/
def Platform.ext (p : Platform) (i : Nat) : ExtComponent :=
  if i < 2 then ExtComponent.absent else (p.exts[i - 2]?).getD ExtComponent.absent

/-- The default X87_INIT of R22: what FNINIT leaves, the registers zero. -/
def x87Fninit : X87 :=
  { fcw := 0x037F, fsw := 0, ftw := 0xFFFF, fop := 0, fip := 0, fcs := 0, fdp := 0, fds := 0,
    st := Vector.replicate 8 0 }

/-- The initial configuration of MXCSR: "MXCSR ← 1F80H" (R24, R94). -/
def mxcsrInit : Word32 := 0x1F80

/-- The legacy region has 512 bytes, so the XSAVE header starts here (R40). -/
def headerOffset : Nat := 512

/-- The legacy area and the header consume 576 bytes: the extended region starts here (R40, R45). -/
def extendedOffset : Nat := 576

end Sys2Proof
end

