-- ==== Sys2Proof/Syntax.lean ====
section
/-! DEFINITION. The instructions as syntax: the two rows of spec/opcode_table.json, XRSTOR and XRSTOR64 (R2), each with
everything its encoding can say (R60): the prefixes in order, the REX bits and the memory operand. Nothing of an
encoding is dropped, so the encoder of Decode.lean is exact. -/

namespace Sys2Proof

/-- A segment register (R30). -/
inductive SegReg where
  | es | cs | ss | ds | fs | gs
  deriving DecidableEq, Repr

/-- What may stand before the opcode, apart from the REX byte in force (R60). -/
inductive Prefix where
  /-- 26H, 2EH, 36H, 3EH, 64H, 65H: a segment override (R70) -/
  | segment (r : SegReg)
  /-- 67H: the other address size (R70) -/
  | addressSize
  /-- F0H: decodes, and the instruction raises #UD (R71, R122) -/
  | lock
  /-- a byte 40H to 4FH in 64-bit mode that another prefix follows: "ignored" (R60); its low four bits -/
  | ignoredRex (bits : BitVec 4)
  deriving DecidableEq, Repr

/-- The R, X and B bits of the REX byte in force; W tells the two instructions apart (R64). -/
structure RexBits where
  r : Bool
  x : Bool
  b : Bool
  deriving DecidableEq, Repr

/-- A displacement as encoded (R67, R68). -/
inductive Disp where
  | none
  | disp8 (d : BitVec 8)
  | disp16 (d : BitVec 16)
  | disp32 (d : BitVec 32)
  deriving DecidableEq, Repr

/-- The register sums of 16-bit addressing, in the order of the r/m field (R68). -/
inductive Regs16 where
  | bxSi | bxDi | bpSi | bpDi | si | di | bp | bx
  deriving DecidableEq, Repr

/-- The memory operand: one constructor for each way ModRM and SIB name an address (R67, R68, R69). Register fields are
the three encoded bits; REX.X and REX.B extend them when the address is formed. -/
inductive MemOperand where
  /-- 16-bit addressing with registers: r/m and a displacement of 0, 1 or 2 bytes -/
  | regs16 (r : Regs16) (d : Disp)
  /-- 16-bit addressing, mod 00 and r/m 110: a 16-bit offset alone -/
  | direct16 (d : BitVec 16)
  /-- one base register and a displacement of 0, 1 or 4 bytes -/
  | base (r : BitVec 3) (d : Disp)
  /-- mod 00 and r/m 101: a 32-bit offset alone, RIP-relative in 64-bit mode -/
  | direct32 (d : BitVec 32)
  /-- a SIB byte with a base register -/
  | sib (scale : BitVec 2) (index base : BitVec 3) (d : Disp)
  /-- a SIB byte with base 101 and mod 00: no base register, a 32-bit displacement -/
  | sibNoBase (scale : BitVec 2) (index : BitVec 3) (d : BitVec 32)
  deriving DecidableEq, Repr

/-- The instructions in scope (R2). -/
inductive Instr where
  /-- `XRSTOR mem`: NP 0F AE /5 (R80); a REX byte may be there with W = 0 -/
  | xrstor (prefixes : List Prefix) (rex : Option RexBits) (mem : MemOperand)
  /-- `XRSTOR64 mem`: NP REX.W + 0F AE /5 (R81) -/
  | xrstor64 (prefixes : List Prefix) (rex : RexBits) (mem : MemOperand)
  deriving DecidableEq, Repr

/-- What the decoder must know of the mode: a 16-bit or 32-bit code segment, or 64-bit mode (R64, R70). -/
inductive CodeSize where
  | code16 | code32 | code64
  deriving DecidableEq, Repr

/-- The address size in force (R70). -/
inductive AddrSize where
  | a16 | a32 | a64
  deriving DecidableEq, Repr

/-- Why bytes are not one of the two instructions (R73). -/
inductive DecodeError where
  /-- the bytes given end before the instruction does -/
  | truncated
  /-- the instruction would be longer than 15 bytes (R72, R73) -/
  | tooLong
  /-- 66H, F2H or F3H stands before the opcode: NP is violated (R63) -/
  | mandatoryPrefix (b : Byte)
  /-- the first opcode byte is not 0FH: another instruction (40H to 4FH outside 64-bit mode and VEX, EVEX and XOP
  prefixes are among them) -/
  | otherOpcode (b : Byte)
  /-- the second opcode byte is not AEH: another instruction -/
  | otherTwoByte (b : Byte)
  /-- ModRM.reg is not 5: another instruction of the group 0F AE -/
  | otherGroup (reg : BitVec 3)
  /-- ModRM.mod is 11: no memory operand, not XRSTOR (R62, R73) -/
  | registerForm (rm : BitVec 3)
  deriving DecidableEq, Repr

/-- The prefixes before the REX byte in force. -/
def Instr.prefixes : Instr → List Prefix
  | .xrstor ps _ _ => ps
  | .xrstor64 ps _ _ => ps

/-- The REX byte in force, if there is one. -/
def Instr.rex : Instr → Option RexBits
  | .xrstor _ rex _ => rex
  | .xrstor64 _ rex _ => some rex

/-- The explicit operand (R66). -/
def Instr.mem : Instr → MemOperand
  | .xrstor _ _ m => m
  | .xrstor64 _ _ m => m

end Sys2Proof
end

