-- ==== Sys2Proof/WellFormed.lean ====
section
/-! DEFINITION. Which terms of `Instr` some bytes stand for, in a code segment of a given size (R60 to R72). The check is
a Bool; the decoder yields only terms that pass it. -/

namespace Sys2Proof

/-- The address size: the code segment's, or the other one with prefix 67H (R70). -/
def CodeSize.addrSize : CodeSize → Bool → AddrSize
  | .code64, false => .a64
  | .code64, true => .a32
  | .code32, false => .a32
  | .code32, true => .a16
  | .code16, false => .a16
  | .code16, true => .a32

/-- The address size of an instruction in a code segment of size `c` (R70). -/
def Instr.addrSize (i : Instr) (c : CodeSize) : AddrSize :=
  c.addrSize (i.prefixes.contains .addressSize)

/-- The bytes a displacement takes. -/
def Disp.length : Disp → Nat
  | .none => 0
  | .disp8 _ => 1
  | .disp16 _ => 2
  | .disp32 _ => 4

/-- The bytes after ModRM: SIB and displacement (R67, R68). -/
def MemOperand.length : MemOperand → Nat
  | .regs16 _ d => d.length
  | .direct16 _ => 2
  | .base _ d => d.length
  | .direct32 _ => 4
  | .sib _ _ _ d => 1 + d.length
  | .sibNoBase _ _ _ => 5

/-- The length of the instruction in bytes (R72). -/
def Instr.length (i : Instr) : Nat :=
  i.prefixes.length + (if i.rex.isSome then 1 else 0) + 3 + i.mem.length

/-- A REX byte is "ignored" only in 64-bit mode; elsewhere those bytes are other instructions (R64). -/
def Prefix.wf (c : CodeSize) : Prefix → Bool
  | .ignoredRex _ => c == .code64
  | _ => true

/-- The prefixes are legal, and a REX byte that nothing follows is not among the ignored ones (R60). -/
def Instr.wfPrefixes (i : Instr) (c : CodeSize) : Bool :=
  i.prefixes.all (Prefix.wf c) &&
    (i.rex.isSome || match i.prefixes.getLast? with
      | some (.ignoredRex _) => false
      | _ => true)

/-- A REX byte exists in 64-bit mode only, so XRSTOR64 does (R64, R65). -/
def Instr.wfRex (i : Instr) (c : CodeSize) : Bool :=
  i.rex.isNone || c == .code64

/-- The addressing form is one of the address size in force (R67, R68). -/
def MemOperand.wfSize (a : AddrSize) : MemOperand → Bool
  | .regs16 _ _ => a == .a16
  | .direct16 _ => a == .a16
  | _ => a != .a16

/-- The displacement is one that 16-bit addressing has, and is there where it must be (R68). -/
def Disp.wf16 (needed : Bool) : Disp → Bool
  | .none => !needed
  | .disp8 _ => true
  | .disp16 _ => true
  | .disp32 _ => false

/-- The displacement is one that 32-bit and 64-bit addressing have, and is there where it must be (R67). -/
def Disp.wf32 (needed : Bool) : Disp → Bool
  | .none => !needed
  | .disp8 _ => true
  | .disp16 _ => false
  | .disp32 _ => true

/-- The addressing form is one ModRM and SIB can name (R67, R68, R69): BP alone, base 101 alone and SIB base 101 alone
always have a displacement, and r/m 100 means SIB. -/
def MemOperand.wfForm : MemOperand → Bool
  | .regs16 r d => d.wf16 (r == .bp)
  | .direct16 _ => true
  | .base r d => r != 4 && d.wf32 (r == 5)
  | .direct32 _ => true
  | .sib _ _ b d => d.wf32 (b == 5)
  | .sibNoBase _ _ _ => true

/-- The longest instruction that decodes has 15 bytes (R72). -/
def Instr.wfLength (i : Instr) : Bool := decide (i.length ≤ 15)

/-- The instruction is one that bytes in a code segment of size `c` stand for. -/
def Instr.wf (c : CodeSize) (i : Instr) : Bool :=
  i.wfPrefixes c && i.wfRex c && i.mem.wfSize (i.addrSize c) && i.mem.wfForm && i.wfLength

end Sys2Proof
end

