-- ==== Sys2Proof/Decode.lean ====
section
/-! DEFINITION. From bytes to instructions and back (30_encoding.md): `decode` is total and refuses by name, `encode`
writes the bytes of an instruction from the same tables. The byte-order helpers stand here as well (R46). -/

namespace Sys2Proof

/-! ## Byte order and bit fields -/

/-- The unsigned number of a byte string, first byte least significant (R46). -/
def leNat : List Byte → Nat
  | [] => 0
  | b :: bs => b.toNat + 256 * leNat bs

/-- The `w`-bit value of a byte string (R46). -/
def leBits (w : Nat) (bs : List Byte) : BitVec w := BitVec.ofNat w (leNat bs)

/-- The `n` bytes of a number, least significant first (R46). -/
def leBytes : Nat → Nat → List Byte
  | 0, _ => []
  | n + 1, v => BitVec.ofNat 8 v :: leBytes n (v / 256)

/-- A byte of three fields of 2, 3 and 3 bits, most significant first: ModRM and SIB (R60). -/
def fields233 (hi : BitVec 2) (mid lo : BitVec 3) : Byte := hi ++ mid ++ lo

/-- Bits 7:6 of a byte. -/
def field76 (b : Byte) : BitVec 2 := b.extractLsb' 6 2

/-- Bits 5:3 of a byte. -/
def field53 (b : Byte) : BitVec 3 := b.extractLsb' 3 3

/-- Bits 2:0 of a byte. -/
def field20 (b : Byte) : BitVec 3 := b.extractLsb' 0 3

/-! ## Prefixes (R60, R63, R64, R70) -/

/-- The prefix a byte is, wherever it stands; REX bytes apart (R60). -/
def legacyOfByte (b : Byte) : Option Prefix :=
  if b = 0x26 then some (.segment .es)
  else if b = 0x2E then some (.segment .cs)
  else if b = 0x36 then some (.segment .ss)
  else if b = 0x3E then some (.segment .ds)
  else if b = 0x64 then some (.segment .fs)
  else if b = 0x65 then some (.segment .gs)
  else if b = 0x67 then some .addressSize
  else if b = 0xF0 then some .lock
  else none

/-- 66H, F2H and F3H: with one of them the bytes are not XRSTOR (R63). -/
def isMandatory (b : Byte) : Bool := b == 0x66 || b == 0xF2 || b == 0xF3

/-- The low four bits W, R, X, B of a REX byte; only in 64-bit mode (R64). -/
def rexOfByte (c : CodeSize) (b : Byte) : Option (BitVec 4) :=
  if c = .code64 ∧ b.extractLsb' 4 4 = 4#4 then some (b.extractLsb' 0 4) else none

/-- Read the prefixes: those before the REX byte in force, that byte's low bits if it is there, and the bytes from the
opcode on. A REX byte with another prefix after it is kept as ignored (R60). -/
def scanPrefixes (c : CodeSize) : List Byte → Except DecodeError (List Prefix × Option (BitVec 4) × List Byte)
  | [] => .error .truncated
  | b :: bs =>
    if isMandatory b then .error (.mandatoryPrefix b)
    else match legacyOfByte b with
      | some p =>
        match scanPrefixes c bs with
        | .error e => .error e
        | .ok (ps, rex, rest) => .ok (p :: ps, rex, rest)
      | none =>
        match rexOfByte c b with
        | none => .ok ([], none, b :: bs)
        | some q =>
          match scanPrefixes c bs with
          | .error e => .error e
          | .ok ([], none, rest) => .ok ([], some q, rest)
          | .ok (ps, rex, rest) => .ok (.ignoredRex q :: ps, rex, rest)

/-! ## The memory operand (R67, R68, R69) -/

/-- The register sum of a 16-bit r/m field (R68). -/
def regs16OfRm (rm : BitVec 3) : Regs16 :=
  if rm = 0 then .bxSi else if rm = 1 then .bxDi else if rm = 2 then .bpSi else if rm = 3 then .bpDi
  else if rm = 4 then .si else if rm = 5 then .di else if rm = 6 then .bp else .bx

/-- An 8-bit displacement and the bytes after it. -/
def takeDisp8 : List Byte → Except DecodeError (BitVec 8 × List Byte)
  | b :: bs => .ok (b, bs)
  | _ => .error .truncated

/-- A 16-bit displacement and the bytes after it. -/
def takeDisp16 : List Byte → Except DecodeError (BitVec 16 × List Byte)
  | b0 :: b1 :: bs => .ok (leBits 16 [b0, b1], bs)
  | _ => .error .truncated

/-- A 32-bit displacement and the bytes after it. -/
def takeDisp32 : List Byte → Except DecodeError (BitVec 32 × List Byte)
  | b0 :: b1 :: b2 :: b3 :: bs => .ok (leBits 32 [b0, b1, b2, b3], bs)
  | _ => .error .truncated

/-- The displacement that mod asks for (R67, R68); mod is not 11. -/
def takeDisp (a : AddrSize) (mod : BitVec 2) (bs : List Byte) : Except DecodeError (Disp × List Byte) :=
  if mod = 0 then .ok (.none, bs)
  else if mod = 1 then
    match takeDisp8 bs with
    | .ok (d, r) => .ok (.disp8 d, r)
    | .error e => .error e
  else if a = .a16 then
    match takeDisp16 bs with
    | .ok (d, r) => .ok (.disp16 d, r)
    | .error e => .error e
  else
    match takeDisp32 bs with
    | .ok (d, r) => .ok (.disp32 d, r)
    | .error e => .error e

/-- The operand of 16-bit addressing (R68). -/
def decodeMem16 (mod : BitVec 2) (rm : BitVec 3) (bs : List Byte) : Except DecodeError (MemOperand × List Byte) :=
  if mod = 0 ∧ rm = 6 then
    match takeDisp16 bs with
    | .ok (d, r) => .ok (.direct16 d, r)
    | .error e => .error e
  else
    match takeDisp .a16 mod bs with
    | .ok (d, r) => .ok (.regs16 (regs16OfRm rm) d, r)
    | .error e => .error e

/-- The operand named by a SIB byte (R69). -/
def decodeSib (a : AddrSize) (mod : BitVec 2) (sib : Byte) (bs : List Byte) :
    Except DecodeError (MemOperand × List Byte) :=
  if mod = 0 ∧ field20 sib = 5 then
    match takeDisp32 bs with
    | .ok (d, r) => .ok (.sibNoBase (field76 sib) (field53 sib) d, r)
    | .error e => .error e
  else
    match takeDisp a mod bs with
    | .ok (d, r) => .ok (.sib (field76 sib) (field53 sib) (field20 sib) d, r)
    | .error e => .error e

/-- The operand of 32-bit and 64-bit addressing (R67). -/
def decodeMem32 (a : AddrSize) (mod : BitVec 2) (rm : BitVec 3) (bs : List Byte) :
    Except DecodeError (MemOperand × List Byte) :=
  if rm = 4 then
    match bs with
    | [] => .error .truncated
    | sib :: bs => decodeSib a mod sib bs
  else if mod = 0 ∧ rm = 5 then
    match takeDisp32 bs with
    | .ok (d, r) => .ok (.direct32 d, r)
    | .error e => .error e
  else
    match takeDisp a mod bs with
    | .ok (d, r) => .ok (.base rm d, r)
    | .error e => .error e

/-- The operand that ModRM names under an address size (R67, R68). -/
def decodeMem (a : AddrSize) (mod : BitVec 2) (rm : BitVec 3) (bs : List Byte) :
    Except DecodeError (MemOperand × List Byte) :=
  if a = .a16 then decodeMem16 mod rm bs else decodeMem32 a mod rm bs

/-! ## The instruction (R61 to R64, R72, R73) -/

/-- The R, X, B bits of a REX byte's low half `WRXB` (R64). -/
def rexBitsOf (q : BitVec 4) : RexBits := { r := q.getLsbD 2, x := q.getLsbD 1, b := q.getLsbD 0 }

/-- REX.W tells XRSTOR64 from XRSTOR (R64). -/
def mkInstr (ps : List Prefix) (rex : Option (BitVec 4)) (m : MemOperand) : Instr :=
  match rex with
  | none => .xrstor ps none m
  | some q => if q.getLsbD 3 then .xrstor64 ps (rexBitsOf q) m else .xrstor ps (some (rexBitsOf q)) m

/-- The opcode and ModRM: 0F AE, reg = 5, mod not 11 (R61, R62); then the operand. -/
def decodeOpcode (a : AddrSize) : List Byte → Except DecodeError (MemOperand × List Byte)
  | [] => .error .truncated
  | op1 :: bs =>
    if op1 ≠ 0x0F then .error (.otherOpcode op1)
    else match bs with
      | [] => .error .truncated
      | op2 :: bs =>
        if op2 ≠ 0xAE then .error (.otherTwoByte op2)
        else match bs with
          | [] => .error .truncated
          | modrm :: bs =>
            if field53 modrm ≠ 5 then .error (.otherGroup (field53 modrm))
            else if field76 modrm = 3 then .error (.registerForm (field20 modrm))
            else decodeMem a (field76 modrm) (field20 modrm) bs

/-- The instruction at the front of a byte string in a code segment of size `c`, and the bytes after it. Total; every
byte string that is not one of the two encodings is refused by name (R73). -/
def decode (c : CodeSize) (bs : List Byte) : Except DecodeError (Instr × List Byte) :=
  match scanPrefixes c bs with
  | .error e => .error e
  | .ok (ps, rex, rest) =>
    match decodeOpcode (c.addrSize (ps.contains .addressSize)) rest with
    | .error e => .error e
    | .ok (m, rest) =>
      if (mkInstr ps rex m).length ≤ 15 then .ok (mkInstr ps rex m, rest) else .error .tooLong

/-! ## The encoder, from the same tables -/

/-- The byte of a prefix (R60, R64). -/
def encodePrefix : Prefix → Byte
  | .segment .es => 0x26
  | .segment .cs => 0x2E
  | .segment .ss => 0x36
  | .segment .ds => 0x3E
  | .segment .fs => 0x64
  | .segment .gs => 0x65
  | .addressSize => 0x67
  | .lock => 0xF0
  | .ignoredRex q => 4#4 ++ q

/-- A REX byte `0100WRXB` (R64). -/
def encodeRex (w : Bool) (q : RexBits) : Byte :=
  4#4 ++ BitVec.ofBool w ++ BitVec.ofBool q.r ++ BitVec.ofBool q.x ++ BitVec.ofBool q.b

/-- The r/m field of a 16-bit register sum (R68). -/
def rmOfRegs16 : Regs16 → BitVec 3
  | .bxSi => 0 | .bxDi => 1 | .bpSi => 2 | .bpDi => 3 | .si => 4 | .di => 5 | .bp => 6 | .bx => 7

/-- The mod field that announces a displacement (R67, R68). -/
def modOfDisp : Disp → BitVec 2
  | .none => 0
  | .disp8 _ => 1
  | .disp16 _ => 2
  | .disp32 _ => 2

/-- The bytes of a displacement, least significant first (R46). -/
def encodeDisp : Disp → List Byte
  | .none => []
  | .disp8 d => [d]
  | .disp16 d => leBytes 2 d.toNat
  | .disp32 d => leBytes 4 d.toNat

/-- ModRM with reg = 5, then SIB and displacement (R62, R67, R68, R69). -/
def encodeMem : MemOperand → List Byte
  | .regs16 r d => fields233 (modOfDisp d) 5 (rmOfRegs16 r) :: encodeDisp d
  | .direct16 d => fields233 0 5 6 :: leBytes 2 d.toNat
  | .base r d => fields233 (modOfDisp d) 5 r :: encodeDisp d
  | .direct32 d => fields233 0 5 5 :: leBytes 4 d.toNat
  | .sib scale index b d => fields233 (modOfDisp d) 5 4 :: fields233 scale index b :: encodeDisp d
  | .sibNoBase scale index d => fields233 0 5 4 :: fields233 scale index 5 :: leBytes 4 d.toNat

/-- The bytes of an instruction, in memory order (R60). -/
def encode : Instr → List Byte
  | .xrstor ps none m => ps.map encodePrefix ++ 0x0F :: 0xAE :: encodeMem m
  | .xrstor ps (some q) m => ps.map encodePrefix ++ encodeRex false q :: 0x0F :: 0xAE :: encodeMem m
  | .xrstor64 ps q m => ps.map encodePrefix ++ encodeRex true q :: 0x0F :: 0xAE :: encodeMem m

/-! ## Words of the opcode table -/

/-- The bytes a word of spec/opcode_table.json stands for, 15 of them. The table numbers the 24 bits of (opcode 1,
opcode 2, ModRM) as ONE number, so bits 23:16 are the first byte in memory; every byte after ModRM is zero. A word of
more than 24 bits may carry the REX byte, which stands before the opcode, in bits 31:24; the table itself gives no row
a bit there (log entry 20). -/
def tableBytes (nbits w : Nat) : List Byte :=
  let opcode : List Byte := [BitVec.ofNat 8 (w >>> 16), BitVec.ofNat 8 (w >>> 8), BitVec.ofNat 8 w]
  let rex : Byte := BitVec.ofNat 8 (w >>> 24)
  if 24 < nbits ∧ rex.extractLsb' 4 4 = 4#4 then rex :: opcode ++ List.replicate 11 0
  else opcode ++ List.replicate 12 0

/-- The instruction the decoder reads from a word of the opcode table, in 64-bit mode, where both rows exist (R65). -/
def decodeTableWord (nbits w : Nat) : Option Instr :=
  match decode .code64 (tableBytes nbits w) with
  | .ok (i, _) => some i
  | .error _ => none

end Sys2Proof
end

