-- ==== Sys2Proof/Machine/State.lean ====
section
/-! DEFINITION. The machine's state as plain data, the faults and refusals a step can end in, and the state after reset
(10_state.md, 20_memory.md section 1, 60_exceptions.md rule R142). -/

namespace Sys2Proof.Machine

/-- The five operating modes (R21). -/
inductive Mode where
  | real | prot | v86 | compat | long64
  deriving DecidableEq, Repr

/-- A segment register with what the operand's checks read of it (R30). InLimit(seg, ea, n) of R48 is plain data here:
the offsets from `floor` to `limit` are inside, `floor` 0 for an ordinary segment. In real-address mode an operand's
base is 16 times the selector instead (R48), and `base` serves the fetch alone (log entry 8). The widths of the four
fields are the model's DESIGN CHOICE: R30 gives none (log entry 25). -/
structure Segment where
  selector : Word16
  base : Word64
  floor : Word32
  limit : Word32
  deriving DecidableEq, Repr

/-- The six segment registers (R30). -/
structure Segments where
  es : Segment
  cs : Segment
  ss : Segment
  ds : Segment
  fs : Segment
  gs : Segment
  deriving DecidableEq, Repr

/-- The tuple XRSTOR leaves for a later XSAVEOPT or XSAVES (R29). -/
structure XrstorInfo where
  cpl : BitVec 2
  vmxnr : Bool
  laxa : Word64
  compmask : Word64
  deriving DecidableEq, Repr

/-- What an access is for: XRSTOR's own reads, or the fetch of its bytes (R48, R52). -/
inductive AccessKind where
  | fetch | read
  deriving DecidableEq, Repr

/-- What `Translate(la, access)` depends on beside the address: "data reads at the current CPL" (R48, R52). -/
structure Access where
  kind : AccessKind
  cpl : BitVec 2
  deriving DecidableEq, Repr

/-- What translating a linear address yields: a physical address, or a page fault with its code (R48, R131). R31 says
that the source does not give a physical address's format: a natural number without a bound, which never wraps, is the
model's DESIGN CHOICE (log entry 27). -/
inductive Translation where
  | physical (address : Nat)
  | pageFault (code : Word32)
  deriving DecidableEq, Repr

/-- One row of the translation in force: the linear addresses `first` to `last` under one access. A physical result is
the address of `first`, and the rows' other addresses follow it (log entry 27). The page-table format behind it
is outside the spec (R52); PF_CODE of R5 is the code in the row (log entry 9). -/
structure TranslationRow where
  first : Nat
  last : Nat
  access : Access
  result : Translation
  deriving DecidableEq, Repr

/-- Memory: address and byte, addresses strictly rising, no byte 0 listed; an unlisted address reads as 0
(log entry 6). -/
abbrev Memory := List Host.Cell

/-- Everything the spec gives the machine (10_state.md, summary table). -/
structure State where
  /-- the sixteen general registers, numbered RAX, RCX, RDX, RBX, RSP, RBP, RSI, RDI, R8 to R15 (R11) -/
  gpr : Vector Word64 16
  /-- the instruction pointer RIP, EIP or IP: the offset in CS of the next instruction (R13) -/
  pc : Word64
  /-- RFLAGS (R14) -/
  rflags : Word64
  /-- the operating mode (R21) -/
  mode : Mode
  /-- the code segment is a 32-bit one; read outside 64-bit mode (R13, R70) -/
  code32 : Bool
  /-- the privilege level of the current code segment (R19) -/
  codeCpl : BitVec 2
  /-- IN_VMX_NONROOT (R20) -/
  vmxNonRoot : Bool
  /-- control register 0: PE, TS, AM (R16). R16 gives no width: 64 bits are the model's DESIGN CHOICE (log entry 26) -/
  cr0 : Word64
  /-- control register 4: OSXSAVE (R17). R17 gives no width: 64 bits are the model's DESIGN CHOICE (log entry 26) -/
  cr4 : Word64
  /-- extended control register 0 (R15) -/
  xcr0 : Word64
  /-- the segment registers (R30) -/
  segs : Segments
  /-- state component 0 (R22) -/
  x87 : X87
  /-- XMM0 to XMM15 (R23) -/
  xmm : Vector (BitVec 128) 16
  /-- MXCSR (R24) -/
  mxcsr : Word32
  /-- the images of the state components 2 to 62; entry k is component k + 2 (R26) -/
  comps : Vector (List Byte) 61
  /-- XINUSE, bits 0 to 62 (R27) -/
  xinuse : BitVec 63
  /-- XMODIFIED_BV (R28) -/
  xmodifiedBv : Word64
  /-- XRSTOR_INFO (R29) -/
  xrstorInfo : XrstorInfo
  /-- the implementation's parameters; no step writes them (R5, R18) -/
  platform : Platform
  /-- the address translation in force (R48, R52) -/
  translations : List TranslationRow
  /-- memory, by physical address (R31) -/
  mem : Memory
  deriving DecidableEq, Repr

/-- An exception's error code, #PF's fault code included. 32 bits is the model's DESIGN CHOICE (log entry 23): the spec
gives no error code a width (R142, N15). -/
abbrev ErrorCode := Word32

/-- The exceptions XRSTOR raises, with what R142 says the outcome records. A raised exception is a terminal outcome of
the step; the state is the one before the instruction (R9, R141), so every one is safe: nothing is claimed of what a
handler would see. -/
inductive Fault where
  /-- invalid opcode, vector 6, no error code: raised by R120, R121 and R122. Safe. -/
  | ud
  /-- device not available, vector 7, no error code: raised by R123. Safe. -/
  | nm
  /-- stack fault, vector 12: raised by R125 and R128, error code 0. Safe. -/
  | ss (code : ErrorCode)
  /-- general protection, vector 13: raised by R124, R126, R127, R129 and R132 to R138; error code 0, and none in
  real-address mode (D21). Safe. -/
  | gp (code : Option ErrorCode)
  /-- page fault, vector 14: raised by R131, with the code of the translation and the faulting linear address. Safe. -/
  | pf (code : ErrorCode) (linear : Word64)
  /-- alignment check, vector 17: raised by R130, error code 0. Safe. -/
  | ac (code : ErrorCode)
  deriving DecidableEq, Repr

/-- Why a step has no meaning (R9). -/
inductive Refusal where
  /-- an instruction without a meaning in this model; no arm of `exec` answers it. Safe. -/
  | notModelled (mnemonic : String)
  /-- the bytes at the instruction pointer are not one of the two encodings: raised by the fetch (R73). Safe. -/
  | notXrstor (reason : DecodeError)
  /-- a byte of the instruction cannot be fetched: the fault it would take is outside the spec (R13): raised by the
  fetch. Safe. -/
  | fetchUnavailable
  /-- XRSTOR64 outside 64-bit mode, where it is not encodable; no bytes decode to it there (R3, R65): raised by
  `execXrstor64`. Safe. -/
  | notEncodable
  deriving DecidableEq, Repr

/-! ## Reset (R33, R160; log entries 2 to 5) -/

/-- A segment register after reset in real-address mode (R33; log entry 3). -/
def resetSegment : Segment := { selector := 0, base := 0, floor := 0, limit := 0xFFFF }

/-- The x87 state after a hardware reset (R22, R33). -/
def resetX87 : X87 :=
  { fcw := 0x0040, fsw := 0, ftw := 0x5555, fop := 0, fip := 0, fcs := 0, fdp := 0, fds := 0,
    st := Vector.replicate 8 0 }

/-- Component 2 as common processors report it (R26, 95_test_vectors.md section 2). -/
def resetExt2 : ExtComponent := { offset := 576, size := 256, align64 := false, init := List.replicate 256 0 }

/-- The parameters of the reset state: platform TP1 of 95_test_vectors.md section 2. What TP1 does not name is the model's
DESIGN CHOICE (log entry 2): `readOrder` 0 among it, where R50 leaves the order of the reads open. No statement but the
two about `State.reset` rests on them. -/
def resetPlatform : Platform :=
  { cpuidXsave := true, cpuidXsavec := true,
    exts := (Vector.replicate 61 ExtComponent.absent).set 0 resetExt2,
    x87Init := x87Fninit, mxcsrMask := 0xFFFF, layout := fxsaveLayout, acChoice := 0, xcr0Supported := 7, vaBits := 48,
    readOrder := 0 }

/-- The machine right after reset. The source states no reset value (R33); each value is the one R33 lists from general
knowledge, or one that a log entry names. R14 and R33 give EFLAGS alone, 00000002H: that RFLAGS[63:32] is 0, and that the
bits above R33's values of the IP, CR0, CR4 and the CS base are 0, is the model's DESIGN CHOICE (log entry 4). -/
def State.reset : State :=
  { gpr := Vector.replicate 16 0
    pc := 0xFFF0
    rflags := 2
    mode := .real
    code32 := false
    codeCpl := 0
    vmxNonRoot := false
    cr0 := 0x60000010
    cr4 := 0
    xcr0 := 1
    segs :=
      { es := resetSegment, cs := { resetSegment with selector := 0xF000, base := 0xFFFF0000 }, ss := resetSegment,
        ds := resetSegment, fs := resetSegment, gs := resetSegment }
    x87 := resetX87
    xmm := Vector.replicate 16 0
    mxcsr := mxcsrInit
    comps := (Vector.replicate 61 []).set 0 (List.replicate 256 0)
    xinuse := 0
    xmodifiedBv := 0
    xrstorInfo := { cpl := 0, vmxnr := false, laxa := 0, compmask := 0 }
    platform := resetPlatform
    translations := []
    mem := [] }

end Sys2Proof.Machine
end

