-- ==== Sys2Proof/Machine/Flags.lean ====
section
/-! DEFINITION. The flag and control bits XRSTOR reads. It writes none: "FLAGS AFFECTED: None." (R14, R98). -/

namespace Sys2Proof.Machine

/-- CR0.TS[bit 3] (R16). -/
def State.ts (s : State) : Bool := s.cr0.getLsbD 3

/-- CR0.AM[bit 18] (R32). -/
def State.am (s : State) : Bool := s.cr0.getLsbD 18

/-- CR4.OSXSAVE[bit 18] (R17). -/
def State.osxsave (s : State) : Bool := s.cr4.getLsbD 18

/-- EFLAGS.AC[bit 18] (R14, R32). -/
def State.eflagsAc (s : State) : Bool := s.rflags.getLsbD 18

/-- AC_ENABLED: "the alignment check exception (#AC) is enabled" (R32, D28). -/
def State.acEnabled (s : State) : Bool := s.am && s.eflagsAc

/-- The current privilege level: 0 in real-address mode, 3 in virtual-8086 mode, else the code segment's (R19, D23). -/
def State.cpl (s : State) : BitVec 2 :=
  match s.mode with
  | .real => 0
  | .v86 => 3
  | .prot | .compat | .long64 => s.codeCpl

end Sys2Proof.Machine
end

