-- ==== Sys2Proof/Machine/Operands.lean ====
section
/-! DEFINITION. Every operand of XRSTOR: the implicit mask EDX:EAX and XCR0, and the memory operand in each addressing
form, down to its segment and effective address (R7, R11, R12, R67 to R70). -/

namespace Sys2Proof.Machine

/-! ## Registers (R11) -/

/-- General register number `n`, 64 bits (R11). -/
def State.reg (s : State) (n : BitVec 4) : Word64 := (s.gpr[n.toNat]?).getD 0

/-- Register numbers (R11). -/
def rax : BitVec 4 := 0
def rcx : BitVec 4 := 1
def rdx : BitVec 4 := 2
def rbx : BitVec 4 := 3
def rsp : BitVec 4 := 4
def rbp : BitVec 4 := 5
def rsi : BitVec 4 := 6
def rdi : BitVec 4 := 7

/-- EDX:EAX: EDX in bits 63:32, EAX in bits 31:0; the upper halves of RDX and RAX are ignored (R7, R11, D2). -/
def State.edxEax (s : State) : Word64 := (s.reg rdx).setWidth 32 ++ (s.reg rax).setWidth 32

/-- RFBM, the requested-feature bitmap: the logical-AND of EDX:EAX and XCR0 (R83). -/
def State.rfbm (s : State) : Word64 := s.xcr0 &&& s.edxEax

/-! ## Code segment and instruction pointer (R13, R70) -/

/-- The size of the code segment as the decoder sees it: 64-bit mode; 16 bits in real-address and virtual-8086 mode;
else what the code segment says (R64, R70). -/
def State.codeSize (s : State) : CodeSize :=
  match s.mode with
  | .long64 => .code64
  | .real | .v86 => .code16
  | .prot | .compat => if s.code32 then .code32 else .code16

/-- The width of the instruction pointer (R13). -/
def State.pcWidth (s : State) : Nat :=
  match s.mode with
  | .long64 => 64
  | .real => 16
  | .prot | .compat | .v86 => if s.code32 then 32 else 16

/-- The low `w` bits of a 64-bit value, zero-extended. -/
def lowBits (w : Nat) (v : Word64) : Word64 := (v.setWidth w).setWidth 64

/-- The address of the next instruction: `(pc + len) mod 2^W` (R13, R99). -/
def State.nextPc (s : State) (len : Nat) : Word64 := lowBits s.pcWidth (s.pc + BitVec.ofNat 64 len)

/-! ## The memory operand (R67 to R70) -/

/-- The segment that the last override names, if there is an override (R70). "Last" is taken over all six overrides in
every mode: in 64-bit mode 26H, 2EH, 36H or 3EH after an FS or GS override takes its base away, although R70 calls these
four "ignored for the address". The spec leaves that pair open; this is the model's DESIGN CHOICE (log entry 22). -/
def lastOverride : List Prefix → Option SegReg
  | [] => none
  | p :: ps =>
    match lastOverride ps, p with
    | some r, _ => some r
    | none, .segment r => some r
    | none, _ => none

/-- REX.X, 0 without REX (R64). -/
def rexX (i : Instr) : Bool :=
  match i.rex with
  | some q => q.x
  | none => false

/-- REX.B, 0 without REX (R64). -/
def rexB (i : Instr) : Bool :=
  match i.rex with
  | some q => q.b
  | none => false

/-- A register number: the REX bit above the three encoded bits (R64). -/
def extendReg (hi : Bool) (r : BitVec 3) : BitVec 4 := BitVec.ofBool hi ++ r

/-- The operand's base is the stack pointer or the frame pointer, so SS is its default segment (R68, R70). -/
def usesStack (i : Instr) : Bool :=
  match i.mem with
  | .regs16 r _ => r == .bpSi || r == .bpDi || r == .bp
  | .direct16 _ => false
  | .base r _ => extendReg (rexB i) r == rsp || extendReg (rexB i) r == rbp
  | .direct32 _ => false
  | .sib _ _ b _ => extendReg (rexB i) b == rsp || extendReg (rexB i) b == rbp
  | .sibNoBase _ _ _ => false

/-- The operand's segment (R70). -/
def segmentOf (i : Instr) : SegReg :=
  match lastOverride i.prefixes with
  | some r => r
  | none => if usesStack i then .ss else .ds

/-- A displacement, sign-extended; sums are cut to the address width later (R67, R68). -/
def dispValue : Disp → Word64
  | .none => 0
  | .disp8 d => d.signExtend 64
  | .disp16 d => d.signExtend 64
  | .disp32 d => d.signExtend 64

/-- The register sum of 16-bit addressing (R68). -/
def regs16Value (s : State) : Regs16 → Word64
  | .bxSi => s.reg rbx + s.reg rsi
  | .bxDi => s.reg rbx + s.reg rdi
  | .bpSi => s.reg rbp + s.reg rsi
  | .bpDi => s.reg rbp + s.reg rdi
  | .si => s.reg rsi
  | .di => s.reg rdi
  | .bp => s.reg rbp
  | .bx => s.reg rbx

/-- The scaled index of a SIB byte; X:index = 0100 is no index (R69). -/
def indexValue (s : State) (x : Bool) (scale : BitVec 2) (index : BitVec 3) : Word64 :=
  if extendReg x index = rsp then 0 else s.reg (extendReg x index) <<< scale.toNat

/-- The address sum before it is cut to the address width (R67, R68, R69). A 32-bit offset alone is RIP-relative in
64-bit mode and absolute elsewhere. -/
def addressSum (s : State) (i : Instr) : Word64 :=
  match i.mem with
  | .regs16 r d => regs16Value s r + dispValue d
  | .direct16 d => d.setWidth 64
  | .base r d => s.reg (extendReg (rexB i) r) + dispValue d
  | .direct32 d => (if s.codeSize = .code64 then s.nextPc i.length else 0) + d.signExtend 64
  | .sib scale index b d => s.reg (extendReg (rexB i) b) + indexValue s (rexX i) scale index + dispValue d
  | .sibNoBase scale index d => indexValue s (rexX i) scale index + d.signExtend 64

/-- The width of an address size. -/
def addrWidth : AddrSize → Nat
  | .a16 => 16
  | .a32 => 32
  | .a64 => 64

/-- The effective address: the sum modulo 2^W, zero-extended (R67, R68). -/
def effectiveAddress (s : State) (i : Instr) : Word64 := lowBits (addrWidth (i.addrSize s.codeSize)) (addressSum s i)

/-- A memory operand: a segment and the effective address of its byte 0 (R48). -/
structure Operand where
  seg : SegReg
  ea : Word64
  deriving DecidableEq, Repr

/-- The memory operand of an instruction (R66, R70). -/
def operandOf (s : State) (i : Instr) : Operand := { seg := segmentOf i, ea := effectiveAddress s i }

end Sys2Proof.Machine
end

