-- ==== Sys2Proof/Machine/Ops.lean ====
section
/-! DEFINITION. The shared operations: memory in its canonical form, translation, linear addresses and their checks,
reads of the XSAVE area, and taking an exception (20_memory.md; 60_exceptions.md rules R124 to R131, R140 to R142). -/

namespace Sys2Proof.Machine

/-! ## Memory (R31; log entry 6) -/

/-- What an address that memory does not list reads as. -/
def Memory.default : Byte := 0

/-- The byte at an address. -/
def Memory.read : Memory → Nat → Byte
  | [], _ => Memory.default
  | (b, v) :: m, a => if b = a then v else Memory.read m a

/-- A cell put before a memory, left out when it says what an unlisted address reads as. -/
def Memory.consCell (a : Nat) (v : Byte) (m : Memory) : Memory := if v = Memory.default then m else (a, v) :: m

/-- Memory with one byte written. XRSTOR writes none (R49); the machine's loader does (`State.withFetchWord`). -/
def Memory.write : Memory → Nat → Byte → Memory
  | [], a, v => Memory.consCell a v []
  | (b, w) :: m, a, v =>
    if a < b then Memory.consCell a v ((b, w) :: m)
    else if a = b then Memory.consCell a v m
    else (b, w) :: Memory.write m a v

/-- Bytes written from an address on. -/
def Memory.writeBytes : Memory → Nat → List Byte → Memory
  | m, _, [] => m
  | m, a, v :: vs => Memory.writeBytes (Memory.write m a v) (a + 1) vs

/-- Every listed address is at least `lo`, addresses rise, and no byte is the default. -/
def Memory.wfFrom : Nat → Memory → Bool
  | _, [] => true
  | lo, (a, v) :: m => decide (lo ≤ a) && v != Memory.default && Memory.wfFrom (a + 1) m

/-- The canonical form of memory. -/
def Memory.wf (m : Memory) : Bool := Memory.wfFrom 0 m

/-! ## Taking an exception (R9, R141, R142) -/

/-- `raise #X(e)`: the step ends with the exception, and nothing after it executes; the state is the one before the
instruction, because nothing has been written (R8, R9, R141). Delivery is outside the spec (R142, R147). -/
def raise (f : Fault) : Host.Outcome State Fault Refusal := .fault f

/-- The vector of an exception (R142). -/
def Fault.vector : Fault → Nat
  | .ud => 6
  | .nm => 7
  | .ss _ => 12
  | .gp _ => 13
  | .pf _ _ => 14
  | .ac _ => 17

/-- The general-protection exception: error code 0, and none in real-address mode (R139, C3, D21). -/
def gpFault (s : State) : Fault :=
  match s.mode with
  | .real => .gp none
  | .prot | .v86 | .compat | .long64 => .gp (some 0)

/-! ## Segments, linear addresses, canonical form (R48) -/

/-- A segment register's contents (R30). -/
def Segments.get (g : Segments) : SegReg → Segment
  | .es => g.es
  | .cs => g.cs
  | .ss => g.ss
  | .ds => g.ds
  | .fs => g.fs
  | .gs => g.gs

/-- The base that a segment adds to an operand's address: 16 times the selector in real-address mode; in 64-bit mode only
FS and GS have one; else the segment's own (R48, R70). -/
def segBase (s : State) (r : SegReg) : Word64 :=
  match s.mode, r with
  | .real, r => (s.segs.get r).selector.setWidth 64 <<< 4
  | .long64, .fs => s.segs.fs.base
  | .long64, .gs => s.segs.gs.base
  | .long64, _ => 0
  | .prot, r | .v86, r | .compat, r => (s.segs.get r).base

/-- The width of a linear address: 64 bits in 64-bit mode, 32 elsewhere (R48). -/
def linearWidth (s : State) : Nat :=
  match s.mode with
  | .long64 => 64
  | .real | .prot | .v86 | .compat => 32

/-- LA(seg, ea + o): the linear address of byte `o` of an operand (R48). -/
def linearAt (s : State) (op : Operand) (o : Nat) : Word64 :=
  lowBits (linearWidth s) (segBase s op.seg + op.ea + BitVec.ofNat 64 o)

/-- The base of the XSAVE area: the linear address of its byte 0 (R40). -/
def areaBase (s : State) (op : Operand) : Word64 := linearAt s op 0

/-- Canonical form: bits 63 down to VA_BITS - 1 are all equal (R48). -/
def canonical (vaBits : Nat) (la : Word64) : Bool :=
  la.toNat >>> (vaBits - 1) == 0 || la.toNat >>> (vaBits - 1) == 2 ^ (65 - vaBits) - 1

/-- The offset is inside the segment's limit (R48, R124, R125). -/
def Segment.inLimit (g : Segment) (offset : Nat) : Bool :=
  decide (g.floor.toNat ≤ offset) && decide (offset ≤ g.limit.toNat)

/-- Byte `o` of the operand may be addressed: at most FFFFH in real-address mode (R126), canonical in 64-bit mode (R127,
R128), inside the segment's limit in the other modes (R124, R125). The sum ea + o does not wrap (R8). -/
def byteAddressable (s : State) (op : Operand) (o : Nat) : Bool :=
  match s.mode with
  | .real => decide (op.ea.toNat + o ≤ 0xFFFF)
  | .long64 => canonical s.platform.vaBits (linearAt s op o)
  | .prot | .v86 | .compat => (s.segs.get op.seg).inLimit (op.ea.toNat + o)

/-- The exception of an address that may not be used: #SS(0) through SS, else #GP(0); #GP without an error code in
real-address mode, whatever the segment (R124 to R128, C8). -/
def addressException (s : State) (op : Operand) : Fault :=
  match s.mode, op.seg with
  | .real, _ => .gp none
  | _, .ss => .ss 0
  | _, _ => .gp (some 0)

/-- An image is the list of the area offsets read for it. Its address fault, if some byte may not be addressed (R140
steps 3 and 7). -/
def addressFault (s : State) (op : Operand) (image : List Nat) : Option Fault :=
  if image.all (byteAddressable s op) then none else some (addressException s op)

/-! ## Translation (R48, R52, R57, R131) -/

/-- The row of the translation in force applies to an access to `la`. -/
def TranslationRow.covers (row : TranslationRow) (access : Access) (la : Word64) : Bool :=
  row.access == access && decide (row.first ≤ la.toNat) && decide (la.toNat ≤ row.last)

/-- What the row yields for `la`. A physical address is a number without a bound and does not wrap: DESIGN CHOICE (log
entry 27). -/
def TranslationRow.yields (row : TranslationRow) (la : Word64) : Translation :=
  match row.result with
  | .physical a => .physical (a + (la.toNat - row.first))
  | .pageFault code => .pageFault code

/-- `Translate(la, access)`: the first row that applies, else the linear address itself. Real-address mode has no paging:
its list has no #PF row (R139). -/
def translate (s : State) (kind : AccessKind) (la : Word64) : Translation :=
  match s.mode with
  | .real => .physical la.toNat
  | .prot | .v86 | .compat | .long64 =>
    match s.translations.find? (fun row => row.covers { kind := kind, cpl := s.cpl } la) with
    | some row => row.yields la
    | none => .physical la.toNat

/-- The page fault of reading byte `o` of the operand, if it has one (R131). -/
def bytePageFault (s : State) (op : Operand) (o : Nat) : Option Fault :=
  match translate s .read (linearAt s op o) with
  | .physical _ => none
  | .pageFault code => some (.pf code (linearAt s op o))

/-- The page fault of an image: that of the faulting byte the implementation reads first (R50, R131, R140). -/
def pageFault (s : State) (op : Operand) (image : List Nat) : Option Fault :=
  (image.filterMap (bytePageFault s op))[
    s.platform.readOrder % (image.filterMap (bytePageFault s op)).length]?

/-! ## Reads of the XSAVE area (R46, R49) -/

/-- Byte `o` of the XSAVE area. Meant for bytes whose checks have passed; a byte that page-faults is never used. -/
def areaByte (s : State) (op : Operand) (o : Nat) : Byte :=
  match translate s .read (linearAt s op o) with
  | .physical a => s.mem.read a
  | .pageFault _ => 0

/-- `MemBytes(base + o, n)` (R8). -/
def areaBytes (s : State) (op : Operand) (o n : Nat) : List Byte := (List.range n).map (fun k => areaByte s op (o + k))

/-- `MemRead(base + o, n)` as a value of `8 * n` bits (R8, R46). -/
def areaRead (s : State) (op : Operand) (o n : Nat) : BitVec (8 * n) := leBits (8 * n) (areaBytes s op o n)

/-- The offsets `o` to `o + n - 1`: the image of an access of `n` bytes. -/
def span (o n : Nat) : List Nat := (List.range n).map (fun k => o + k)

/-- The first condition that holds is the one reported (R140). -/
def firstFault : List (Option Fault) → Option Fault
  | [] => none
  | some f :: _ => some f
  | none :: fs => firstFault fs

end Sys2Proof.Machine
end

