-- ==== Sys2Proof/Machine/Area.lean ====
section
/-! DEFINITION. What the XSAVE area says: its header, the masks of both forms, where each component lies, and the x87,
SSE and extended images (20_memory.md rules R40 to R45; 40_xrstor.md rules R83 to R95, R102). -/

namespace Sys2Proof.Machine

/-- Which of the two instructions runs: they differ in the layout of the x87 pointers only (R80, R81, D8). -/
inductive Form where
  | xrstor | xrstor64
  deriving DecidableEq, Repr

/-! ## The header (R41, R84) -/

/-- The XSAVE header: XSTATE_BV (RSTORMASK), XCOMP_BV (COMPMASK) and the reserved bytes 63:16 (R41). -/
structure Header where
  xstateBv : Word64
  xcompBv : Word64
  reserved : List Byte
  deriving DecidableEq, Repr

/-- The header of an area (R41, R84). -/
def readHeader (s : State) (op : Operand) : Header :=
  { xstateBv := areaRead s op headerOffset 8
    xcompBv := areaRead s op (headerOffset + 8) 8
    reserved := areaBytes s op (headerOffset + 16) 48 }

/-- Bit 63 of XCOMP_BV: the compacted form (R85). -/
def Header.compacted (h : Header) : Bool := h.xcompBv.getLsbD 63

/-- FORMAT: XCOMP_BV without its bit 63 (R92). -/
def Header.format (h : Header) : Word64 := h.xcompBv &&& 0x7FFFFFFFFFFFFFFF

/-! ## The masks (R86, R92) -/

/-- TO_BE_RESTORED of the form in use (R86, R92). -/
def Header.toBeRestored (h : Header) (rfbm : Word64) : Word64 :=
  if h.compacted then (h.format &&& rfbm) &&& h.xstateBv else rfbm &&& h.xstateBv

/-- TO_BE_INITIALIZED of the form in use (R86, R92). -/
def Header.toBeInitialized (h : Header) (rfbm : Word64) : Word64 :=
  if h.compacted then (rfbm &&& ~~~h.xstateBv) ||| (rfbm &&& ~~~h.format) else rfbm &&& ~~~h.xstateBv

/-- MXCSR is taken from memory: in the standard form when component 1 or 2 is requested, in the compacted form when
component 1 is restored (R88, R94). -/
def Header.loadsMxcsr (h : Header) (rfbm : Word64) : Bool :=
  if h.compacted then (h.toBeRestored rfbm).getLsbD 1 else rfbm.getLsbD 1 || rfbm.getLsbD 2

/-! ## Where the components lie (R44, R45) -/

/-- `ceil64` (R95). -/
def ceil64 (x : Nat) : Nat := 64 * ((x + 63) / 64)

/-- The ALIGN64 rounding of a running offset, before component `i` is placed (R45, R95). -/
def alignFor (p : Platform) (i x : Nat) : Nat := if (p.ext i).align64 then ceil64 x else x

/-- NEXT_FEATURE_OFFSET after the components 2 to n + 1 of a compacted area have been passed (R45, R95). -/
def runningOffset (p : Platform) (format : Word64) : Nat → Nat
  | 0 => extendedOffset
  | n + 1 =>
    if format.getLsbD (n + 2) then alignFor p (n + 2) (runningOffset p format n) + (p.ext (n + 2)).size
    else runningOffset p format n

/-- CompactOffset(FORMAT, i), with the ALIGN64 parameter (R45). -/
def compactOffset (p : Platform) (format : Word64) (i : Nat) : Nat := alignFor p i (runningOffset p format (i - 2))

/-- The area offset of component `i` in the form in use (R44, R45). -/
def componentOffset (p : Platform) (h : Header) (i : Nat) : Nat :=
  if h.compacted then compactOffset p h.format i else (p.ext i).offset

/-! ## The images read (R49) -/

/-- NXMM: 16 in 64-bit mode, 8 elsewhere (R23, D18). -/
def State.nxmm (s : State) : Nat :=
  match s.mode with
  | .long64 => 16
  | .real | .prot | .v86 | .compat => 8

/-- The header's 64 bytes (R49). -/
def headerImage : List Nat := span headerOffset 64

/-- The offsets of some byte ranges. -/
def spans (ranges : List ByteRange) : List Nat := ranges.flatMap (fun r => span r.offset r.length)

/-- The x87 image: bytes 0 to 23 and 32 to 159 under the default layout (R43, R49). -/
def x87Image (s : State) : List Nat := spans s.platform.layout.x87

/-- The MXCSR image: bytes 24 to 27 under the default layout (R43, R49). -/
def mxcsrImage (s : State) : List Nat := spans [s.platform.layout.mxcsr]

/-- The XMM images, of XMM0 to XMM(NXMM-1): from byte 160 on under the default layout (R43, R49). -/
def xmmImage (s : State) : List Nat := spans (s.platform.layout.xmm.toList.take s.nxmm)

/-- The image of component `i` (R49). -/
def componentImage (s : State) (h : Header) (i : Nat) : List Nat :=
  span (componentOffset s.platform h i) (s.platform.ext i).size

/-- The images to be read after the header, in the order of R140 step 7: x87, MXCSR, XMM, components in increasing i. -/
def imagesToRead (s : State) (h : Header) : List (List Nat) :=
  (if (h.toBeRestored s.rfbm).getLsbD 0 then [x87Image s] else []) ++
  (if h.loadsMxcsr s.rfbm then [mxcsrImage s] else []) ++
  (if (h.toBeRestored s.rfbm).getLsbD 1 then [xmmImage s] else []) ++
  ((List.range' 2 61).filter (fun i => (h.toBeRestored s.rfbm).getLsbD i)).map (componentImage s h)

/-! ## The x87 image (R43, R102) -/

/-- The tag of a register value: 01 zero, 10 a NaN, an infinity, a denormal or an unsupported format, 00 otherwise
(R43). -/
def tagOf (v : BitVec 80) : BitVec 2 :=
  if v.extractLsb' 64 15 = 0 ∧ v.extractLsb' 0 64 = 0 then 1
  else if v.extractLsb' 64 15 = 0 ∨ v.extractLsb' 64 15 = 0x7FFF ∨ v.getLsbD 63 = false then 2
  else 0

/-- TOP: bits 13:11 of the status word (R22). -/
def topOf (fsw : Word16) : BitVec 3 := fsw.extractLsb' 11 3

/-- The tag of physical register `p`: 11 where the abridged bit is 0, else recomputed from ST(k) with
p = (k + TOP) mod 8 (R43). -/
def fullTag (abridged : Byte) (top : BitVec 3) (st : Vector (BitVec 80) 8) (p : BitVec 3) : BitVec 2 :=
  if abridged.getLsbD p.toNat then tagOf ((st[(p - top).toNat]?).getD 0) else 3

/-- The tag word from the abridged one, register 7 in the top bits (R43). -/
def fullTagWord (abridged : Byte) (top : BitVec 3) (st : Vector (BitVec 80) 8) : Word16 :=
  fullTag abridged top st 7 ++ fullTag abridged top st 6 ++ fullTag abridged top st 5 ++ fullTag abridged top st 4 ++
  fullTag abridged top st 3 ++ fullTag abridged top st 2 ++ fullTag abridged top st 1 ++ fullTag abridged top st 0

/-- A field of the legacy region: the bytes of its range in LEGACY_LAYOUT, cut or zero-extended to its width (R43, D4;
log entry 28). -/
def legacyField (s : State) (op : Operand) (r : ByteRange) (w : Nat) : BitVec w :=
  (areaRead s op r.offset r.length).setWidth w

/-- ST(0) to ST(7) as the legacy region holds them (R43). -/
def loadSt (s : State) (op : Operand) : Vector (BitVec 80) 8 :=
  Vector.ofFn (fun k => legacyField s op s.platform.layout.st[k] 80)

/-- `LoadX87(base, form)`: XRSTOR64 reads 64-bit pointers and sets the selectors to 0; XRSTOR reads 32-bit pointers,
zero-extended, and the selectors (R43, R81, R102, D8). Under a LEGACY_LAYOUT whose range for XRSTOR's FIP or FDP is
longer than 4 bytes the pointer is the range's low 32 bits: DESIGN CHOICE (log entry 28). -/
def loadX87 (form : Form) (s : State) (op : Operand) : X87 :=
  let l := s.platform.layout
  let fsw := legacyField s op l.fsw 16
  { fcw := legacyField s op l.fcw 16
    fsw := fsw
    ftw := fullTagWord (legacyField s op l.ftw 8) (topOf fsw) (loadSt s op)
    fop := legacyField s op l.fop 11
    fip := match form with
      | .xrstor64 => legacyField s op l.fip64 64
      | .xrstor => (legacyField s op l.fip 32).setWidth 64
    fcs := match form with
      | .xrstor64 => 0
      | .xrstor => legacyField s op l.fcs 16
    fdp := match form with
      | .xrstor64 => legacyField s op l.fdp64 64
      | .xrstor => (legacyField s op l.fdp 32).setWidth 64
    fds := match form with
      | .xrstor64 => 0
      | .xrstor => legacyField s op l.fds 16
    st := loadSt s op }

/-- The MXCSR image of an area (R43). -/
def loadMxcsr (s : State) (op : Operand) : Word32 := legacyField s op s.platform.layout.mxcsr 32

/-- The image of XMMj, j at most 15 (R23, R43). -/
def loadXmm (s : State) (op : Operand) (j : Nat) : BitVec 128 :=
  match s.platform.layout.xmm[j]? with
  | some r => legacyField s op r 128
  | none => 0

/-- The image of component `i`: `MemBytes(base + o, SIZE(i))` (R26, R90, R95). -/
def loadComponent (s : State) (op : Operand) (h : Header) (i : Nat) : List Byte :=
  areaBytes s op (componentOffset s.platform h i) (s.platform.ext i).size

/-- COMP[i]: the image that state component `i` holds (R26). -/
def State.comp (s : State) (i : Nat) : List Byte := if i < 2 then [] else (s.comps[i - 2]?).getD []

end Sys2Proof.Machine
end

