-- ==== Sys2Proof/Machine/Restore.lean ====
section
/-! DEFINITION. The common procedure `Restore` (R82): every check in the order of R140, and the state that a completed
XRSTOR leaves (R83 to R99). All checks and reads come before all writes (R141). -/

namespace Sys2Proof.Machine

/-! ## The checks (R120 to R138, R140) -/

/-- #UD: the LOCK prefix, CR4.OSXSAVE = 0, no XSAVE feature set (R120, R121, R122). -/
def udFault (s : State) (i : Instr) : Option Fault :=
  if i.prefixes.contains .lock || !s.osxsave || !s.platform.cpuidXsave then some .ud else none

/-- #NM: CR0.TS = 1 (R123). -/
def nmFault (s : State) : Option Fault := if s.ts then some .nm else none

/-- The exception of a misaligned operand: #AC where alignment checking is on, CPL is 3, the mode has the row and the
implementation chooses it, else #GP (R129, R130). -/
def misalignedFault (s : State) (op : Operand) : Fault :=
  if s.mode ≠ .real ∧ s.acEnabled = true ∧ s.cpl = 3 ∧
      s.platform.acChoice.getLsbD ((areaBase s op).toNat % 64) = true then .ac 0
  else gpFault s

/-- The operand is not aligned on a 64-byte boundary (R47, R129). -/
def alignmentFault (s : State) (op : Operand) : Option Fault :=
  if (areaBase s op).toNat % 64 = 0 then none else some (misalignedFault s op)

/-- The header is one that the standard form refuses: a bit of XSTATE_BV that XCR0 lacks, or header bytes 23:8 not all
zero (R133, R134). -/
def standardIllegal (s : State) (h : Header) : Bool :=
  h.xstateBv &&& ~~~s.xcr0 != 0 || h.xcompBv != 0 || (h.reserved.take 8).any (· != 0)

/-- The header is one that the compacted form refuses: the form is not supported, a bit of FORMAT that XCR0 lacks, a bit
of XSTATE_BV that XCOMP_BV lacks, or header bytes 63:16 not all zero (R132, R135, R136, R137). -/
def compactedIllegal (s : State) (h : Header) : Bool :=
  !s.platform.cpuidXsavec || h.format &&& ~~~s.xcr0 != 0 || h.xstateBv &&& ~~~h.xcompBv != 0 || h.reserved.any (· != 0)

/-- #GP for the header's content (R140 step 6). -/
def headerFault (s : State) (h : Header) : Option Fault :=
  if (if h.compacted then compactedIllegal s h else standardIllegal s h) then some (gpFault s) else none

/-- A value of MXCSR sets no reserved bit (R24). -/
def mxcsrLegal (p : Platform) (v : Word32) : Bool := v &&& ~~~p.mxcsrMask == 0

/-- #GP for a reserved bit in an MXCSR image that is to be loaded (R138). -/
def mxcsrFault (s : State) (op : Operand) (h : Header) : Option Fault :=
  if h.loadsMxcsr s.rfbm && !mxcsrLegal s.platform (loadMxcsr s op) then some (gpFault s) else none

/-- The faults of reading the images: for each, its address fault, then its page fault (R140 step 7). -/
def imageFaults (s : State) (op : Operand) (h : Header) : List (Option Fault) :=
  (imagesToRead s h).flatMap (fun image => [addressFault s op image, pageFault s op image])

/-- Every condition, in the order of R140. -/
def faultConditions (s : State) (i : Instr) (op : Operand) : List (Option Fault) :=
  [udFault s i, nmFault s, addressFault s op headerImage, alignmentFault s op, pageFault s op headerImage,
    headerFault s (readHeader s op)] ++
  imageFaults s op (readHeader s op) ++
  [mxcsrFault s op (readHeader s op)]

/-- The exception that an XRSTOR raises, if any (R140). -/
def restoreFault (s : State) (i : Instr) : Option Fault := firstFault (faultConditions s i (operandOf s i))

/-! ## The restored state (R86 to R97) -/

/-- Component 0: loaded, initialized or unchanged (R87, R93). -/
def newX87 (form : Form) (s : State) (op : Operand) (h : Header) : X87 :=
  if (h.toBeRestored s.rfbm).getLsbD 0 then loadX87 form s op
  else if (h.toBeInitialized s.rfbm).getLsbD 0 then s.platform.x87Init
  else s.x87

/-- MXCSR: loaded by its own condition; the compacted form also initializes it with component 1 (R88, R94). -/
def newMxcsr (s : State) (op : Operand) (h : Header) : Word32 :=
  if h.loadsMxcsr s.rfbm then loadMxcsr s op
  else if h.compacted && (h.toBeInitialized s.rfbm).getLsbD 1 then mxcsrInit
  else s.mxcsr

/-- XMMj: only XMM0 to XMM(NXMM-1) are loaded or set to 0 (R23, R89, R94). -/
def newXmmReg (s : State) (op : Operand) (h : Header) (j : Nat) (old : BitVec 128) : BitVec 128 :=
  if s.nxmm ≤ j then old
  else if (h.toBeRestored s.rfbm).getLsbD 1 then loadXmm s op j
  else if (h.toBeInitialized s.rfbm).getLsbD 1 then 0
  else old

/-- The XMM registers (R89, R94). -/
def newXmm (s : State) (op : Operand) (h : Header) : Vector (BitVec 128) 16 :=
  Vector.ofFn (fun j => newXmmReg s op h j.val s.xmm[j])

/-- COMP[i]: loaded, initialized or unchanged (R90, R95). -/
def newComp (s : State) (op : Operand) (h : Header) (i : Nat) (old : List Byte) : List Byte :=
  if (h.toBeRestored s.rfbm).getLsbD i then loadComponent s op h i
  else if (h.toBeInitialized s.rfbm).getLsbD i then (s.platform.ext i).init
  else old

/-- The components 2 to 62 (R90, R95). -/
def newComps (s : State) (op : Operand) (h : Header) : Vector (List Byte) 61 :=
  Vector.ofFn (fun k => newComp s op h (k.val + 2) s.comps[k])

/-- XINUSE: 1 for the components loaded, 0 for those initialized, the others unchanged (R27, R101). -/
def newXinuse (s : State) (h : Header) : BitVec 63 :=
  (s.xinuse ||| (h.toBeRestored s.rfbm).setWidth 63) &&& ~~~((h.toBeInitialized s.rfbm).setWidth 63)

/-- XRSTOR_INFO: CPL, VMXNR, LAXA and COMPMASK (R97). -/
def newXrstorInfo (s : State) (op : Operand) (h : Header) : XrstorInfo :=
  { cpl := s.cpl, vmxnr := s.vmxNonRoot, laxa := areaBase s op, compmask := h.xcompBv }

/-- The state a completed XRSTOR leaves, given its operand and header (R86 to R99). Nothing else is written (R34). -/
def restoredWith (form : Form) (s : State) (len : Nat) (op : Operand) (h : Header) : State :=
  { s with
    x87 := newX87 form s op h
    mxcsr := newMxcsr s op h
    xmm := newXmm s op h
    comps := newComps s op h
    xinuse := newXinuse s h
    xmodifiedBv := ~~~s.rfbm
    xrstorInfo := newXrstorInfo s op h
    pc := s.nextPc len }

/-- The state a completed XRSTOR leaves (R82 steps 7 to 12). -/
def restored (form : Form) (s : State) (i : Instr) : State :=
  restoredWith form s i.length (operandOf s i) (readHeader s (operandOf s i))

/-- `Restore(form)`: the first condition that holds is raised, with no state change; else the instruction completes
(R82, R140, R141). -/
def restore (form : Form) (s : State) (i : Instr) : Host.Outcome State Fault Refusal :=
  match restoreFault s i with
  | some f => raise f
  | none => .next (restored form s i)

end Sys2Proof.Machine
end

