-- ==== Sys2Proof/Machine/Xrstor.lean ====
section
/-! DEFINITION. The meanings of the two instructions (R80, R81). -/

namespace Sys2Proof.Machine

/-- `XRSTOR mem`, valid in every mode (R80). -/
def execXrstor (prefixes : List Prefix) (rex : Option RexBits) (mem : MemOperand) (s : State) :
    Host.Outcome State Fault Refusal :=
  restore .xrstor s (.xrstor prefixes rex mem)

/-- `XRSTOR64 mem`, valid in 64-bit mode; elsewhere it is not encodable and no bytes decode to it (R3, R65, R81). -/
def execXrstor64 (prefixes : List Prefix) (rex : RexBits) (mem : MemOperand) (s : State) :
    Host.Outcome State Fault Refusal :=
  match s.mode with
  | .long64 => restore .xrstor64 s (.xrstor64 prefixes rex mem)
  | .real | .prot | .v86 | .compat => .refused .notEncodable

end Sys2Proof.Machine
end

