-- ==== Sys2Proof/Machine/Dispatch.lean ====
section
/-! DEFINITION. The meaning of an instruction: one arm for each constructor. -/

namespace Sys2Proof.Machine

def exec (i : Instr) (s : State) : Host.Outcome State Fault Refusal :=
  match i with
  | .xrstor prefixes rex mem => Sys2Proof.Machine.execXrstor prefixes rex mem s
  | .xrstor64 prefixes rex mem => Sys2Proof.Machine.execXrstor64 prefixes rex mem s

end Sys2Proof.Machine
end

