-- ==== Sys2Proof/Machine/Fetch.lean ====
section
/-! DEFINITION. Fetching the bytes of an instruction at the instruction pointer, and placing them there (R13, R31, R72;
log entries 10 and 20). -/

namespace Sys2Proof.Machine

/-- The longest instruction has 15 bytes (R72). -/
def maxLength : Nat := 15

/-- The code byte `k` bytes after the instruction pointer, as an operand in CS. -/
def codeOperand (s : State) : Operand := { seg := .cs, ea := lowBits s.pcWidth s.pc }

/-- The base that CS adds to a fetch: its base field, none in 64-bit mode. In real-address mode this is not 16 times the
selector, so that the fetch after reset is at FFFF0000H + FFF0H (R33; log entry 8). -/
def codeBase (s : State) : Word64 :=
  match s.mode with
  | .long64 => 0
  | .real | .prot | .v86 | .compat => s.segs.cs.base

/-- The linear address of the byte `k` bytes after the instruction pointer (R13, R48). -/
def codeLinear (s : State) (k : Nat) : Word64 :=
  lowBits (linearWidth s) (codeBase s + (codeOperand s).ea + BitVec.ofNat 64 k)

/-- The byte `k` bytes after the instruction pointer may be fetched: at most FFFFH in real-address mode, canonical in
64-bit mode, inside CS's limit in the other modes, as for an operand in CS (R48). -/
def codeAddressable (s : State) (k : Nat) : Bool := byteAddressable s (codeOperand s) k

/-- The byte `k` bytes after the instruction pointer, if it can be fetched (R13). -/
def fetchByte (s : State) (k : Nat) : Option Byte :=
  if codeAddressable s k then
    match translate s .fetch (codeLinear s k) with
    | .physical a => some (s.mem.read a)
    | .pageFault _ => none
  else none

/-- The bytes that can be fetched from `k` on, up to `n` of them. -/
def fetchFrom (s : State) (k : Nat) : Nat → List Byte
  | 0 => []
  | n + 1 =>
    match fetchByte s k with
    | none => []
    | some b => b :: fetchFrom s (k + 1) n

/-- The bytes the decoder sees: at most 15 (R72). -/
def fetchBytes (s : State) : List Byte := fetchFrom s 0 maxLength

/-- The refusal of bytes that do not decode. Bytes that end early end at a byte that cannot be fetched, or at the fifteenth
(R72, R73). -/
def decodeRefusal (available : Nat) : DecodeError → Refusal
  | .truncated => if available < maxLength then .fetchUnavailable else .notXrstor .tooLong
  | e => .notXrstor e

/-- The instruction at the instruction pointer, or why there is none (R9, R73). -/
def fetchDecode (s : State) : Except Refusal Instr :=
  match decode s.codeSize (fetchBytes s) with
  | .ok (i, _) => .ok i
  | .error e => .error (decodeRefusal (fetchBytes s).length e)

/-- Bytes written where the instruction pointer fetches, each at its linear address. -/
def storeCode (s : State) (m : Memory) : Nat → List Byte → Memory
  | _, [] => m
  | k, b :: bs => storeCode s (m.write (codeLinear s k).toNat b) (k + 1) bs

/-- A state whose next instruction has the given bytes: they are written at the linear addresses that are fetched, and
the rows that translate fetches are taken out, so that a fetch reads those addresses. -/
def placeCode (s : State) (bs : List Byte) : State :=
  { s with
    mem := storeCode s s.mem 0 bs
    translations := s.translations.filter (fun row => row.access.kind != .fetch) }

end Sys2Proof.Machine
end

