-- ==== Sys2Proof/Machine/Step.lean ====
section
/-! DEFINITION. One step: the instruction at the instruction pointer is fetched, decoded and executed (R9, R10). -/

namespace Sys2Proof.Machine

/-- One execution of the instruction at the instruction pointer (R9). The meaning itself moves the pointer (R99). -/
def step (s : State) : Host.Outcome State Fault Refusal :=
  match fetchDecode s with
  | .error r => .refused r
  | .ok i => exec i s

/-- The state with a word of the opcode table stored where `step` fetches. -/
def State.withFetchWord (s : State) (nbits w : Nat) : State := placeCode s (tableBytes nbits w)

end Sys2Proof.Machine
end

