-- ==== Sys2Proof/Machine/Operation.lean ====
section
/-! DEFINITION. The source's OPERATION, written statement after statement as R86 to R97 give it: the branches of
component 0, MXCSR and the XMM registers, the loops FOR i ← 2 TO 62, the tracking state. `exec` does not use it; the
statements compare the model's closed form with it. -/

namespace Sys2Proof.Machine

/-- `XINUSE[i] <- b` (R8). -/
def setXinuse (t : State) (i : Nat) (b : Bool) : State :=
  { t with xinuse := if b then t.xinuse ||| BitVec.twoPow 63 i else t.xinuse &&& ~~~(BitVec.twoPow 63 i) }

/-- `COMP[i] <- image` (R8, R26). -/
def setComp (t : State) (i : Nat) (image : List Byte) : State :=
  { t with comps := t.comps.setIfInBounds (i - 2) image }

/-- XMM[0] to XMM[NXMM - 1] assigned (R89, R94). -/
def setXmm (t : State) (v : Nat → BitVec 128) : State :=
  { t with xmm := Vector.ofFn (fun j => if j.val < t.nxmm then v j.val else t.xmm[j]) }

/-- The branch of component 0, the same text in both forms (R87, R93). -/
def x87Branch (form : Form) (op : Operand) (tbr tbi : Word64) (t : State) : State :=
  if tbr.getLsbD 0 then setXinuse { t with x87 := loadX87 form t op } 0 true
  else if tbi.getLsbD 0 then setXinuse { t with x87 := t.platform.x87Init } 0 false
  else t

/-- The standard form's MXCSR step (R88). -/
def standardMxcsr (op : Operand) (rfbm : Word64) (t : State) : State :=
  if rfbm.getLsbD 1 || rfbm.getLsbD 2 then { t with mxcsr := loadMxcsr t op } else t

/-- The standard form's XMM branch: it neither loads nor initializes MXCSR (R89). -/
def standardXmm (op : Operand) (tbr tbi : Word64) (t : State) : State :=
  if tbr.getLsbD 1 then setXinuse (setXmm t (loadXmm t op)) 1 true
  else if tbi.getLsbD 1 then setXinuse (setXmm t (fun _ => 0)) 1 false
  else t

/-- The body of the standard form's loop (R90). -/
def standardBody (op : Operand) (tbr tbi : Word64) (t : State) (i : Nat) : State :=
  if tbr.getLsbD i then
    setXinuse (setComp t i (areaBytes t op (t.platform.ext i).offset (t.platform.ext i).size)) i true
  else if tbi.getLsbD i then setXinuse (setComp t i (t.platform.ext i).init) i false
  else t

/-- The standard form (R86 to R90). -/
def standardForm (form : Form) (op : Operand) (h : Header) (rfbm : Word64) (t : State) : State :=
  let tbr := rfbm &&& h.xstateBv
  let tbi := rfbm &&& ~~~h.xstateBv
  (List.range' 2 61).foldl (standardBody op tbr tbi)
    (standardXmm op tbr tbi (standardMxcsr op rfbm (x87Branch form op tbr tbi t)))

/-- The compacted form's branch of component 1, XMM registers and MXCSR together (R94). -/
def compactedSse (op : Operand) (tbr tbi : Word64) (t : State) : State :=
  if tbr.getLsbD 1 then setXinuse (setXmm { t with mxcsr := loadMxcsr t op } (loadXmm t op)) 1 true
  else if tbi.getLsbD 1 then setXinuse { setXmm t (fun _ => 0) with mxcsr := mxcsrInit } 1 false
  else t

/-- The part of the compacted loop's body under FORMAT[i] = 1: place, load, advance (R95). -/
def compactedPlace (op : Operand) (tbr : Word64) (t : State) (next i : Nat) : State × Nat :=
  let at64 := if (t.platform.ext i).align64 then ceil64 next else next
  let t' := if tbr.getLsbD i then setXinuse (setComp t i (areaBytes t op at64 (t.platform.ext i).size)) i true else t
  (t', at64 + (t.platform.ext i).size)

/-- The body of the compacted form's loop, with NEXT_FEATURE_OFFSET carried along (R95). -/
def compactedBody (op : Operand) (format tbr tbi : Word64) (acc : State × Nat) (i : Nat) : State × Nat :=
  let acc' := if format.getLsbD i then compactedPlace op tbr acc.1 acc.2 i else acc
  if tbi.getLsbD i then (setXinuse (setComp acc'.1 i (acc'.1.platform.ext i).init) i false, acc'.2) else acc'

/-- The compacted form (R92 to R95). -/
def compactedForm (form : Form) (op : Operand) (h : Header) (rfbm : Word64) (t : State) : State :=
  let format := h.xcompBv &&& 0x7FFFFFFFFFFFFFFF
  let restoreFeatures := format &&& rfbm
  let tbr := restoreFeatures &&& h.xstateBv
  let forceInit := rfbm &&& ~~~format
  let tbi := (rfbm &&& ~~~h.xstateBv) ||| forceInit
  ((List.range' 2 61).foldl (compactedBody op format tbr tbi)
    (compactedSse op tbr tbi (x87Branch form op tbr tbi t), 576)).1

/-- The steps common to both forms: XMODIFIED_BV, XRSTOR_INFO, the instruction pointer (R96, R97, R99). -/
def finish (op : Operand) (h : Header) (rfbm : Word64) (len : Nat) (t : State) : State :=
  { t with
    xmodifiedBv := ~~~rfbm
    xrstorInfo := { cpl := t.cpl, vmxnr := t.vmxNonRoot, laxa := areaBase t op, compmask := h.xcompBv }
    pc := t.nextPc len }

/-- Steps 6 to 12 of `Restore(form)` (R82): RFBM, the header, one of the two forms, the common steps. -/
def operation (form : Form) (s : State) (i : Instr) : State :=
  let op := operandOf s i
  let h := readHeader s op
  let rfbm := s.xcr0 &&& s.edxEax
  let t := if h.xcompBv.getLsbD 63 = false then standardForm form op h rfbm s else compactedForm form op h rfbm s
  finish op h rfbm i.length t

end Sys2Proof.Machine
end

