-- ==== Sys2Proof/Machine/Run.lean ====
section
/-! DEFINITION. A run: from a launch state, step after step, up to the end of the program (R160, R162, R165; log entry
24). -/

namespace Sys2Proof.Machine

/-- How a run ends, with the state it ends in (R162). A fault or a refusal leaves the state in which the step began
(R9, R141). -/
inductive RunEnd where
  /-- the instruction pointer is the address just past the last instruction of the program -/
  | finished (s : State)
  /-- the step from `s` raises an exception -/
  | fault (f : Fault) (s : State)
  /-- the step from `s` is refused -/
  | refused (r : Refusal) (s : State)
  /-- the steps that were given have been taken, and the run has not ended -/
  | running (s : State)
  deriving DecidableEq, Repr

/-- The address just past the last instruction of a program of `bytes` bytes at the instruction pointer (R13, R162). -/
def State.programEnd (s : State) (bytes : Nat) : Word64 := s.nextPc bytes

/-- A run of at most so many steps that ends when the instruction pointer equals `stop`, or at the first fault or refusal
(R162). No step is taken once the pointer is there. -/
def runUntil (stop : Word64) : Nat → State → RunEnd
  | 0, s => if s.pc = stop then .finished s else .running s
  | n + 1, s =>
    if s.pc = stop then .finished s
    else match step s with
      | .next t => runUntil stop n t
      | .fault f => .fault f s
      | .refused r => .refused r s

/-- The run of a program of `bytes` bytes that stands at the instruction pointer of the launch state `s` (R160, R162). -/
def runProgram (bytes n : Nat) (s : State) : RunEnd := runUntil (s.programEnd bytes) n s

end Sys2Proof.Machine
end

