-- ==== Sys2Proof/Safety.lean ====
section
/-! DEFINITION. The terms in which the statements speak: the invariant of the machine's states, when an XRSTOR completes,
and which exceptions each mode has. -/

namespace Sys2Proof.Machine

/-! ## The invariant -/

/-- What every state should satisfy, and every step keeps: memory in its canonical form; XCR0_WF of R160; every supported
component's image and initial image of SIZE(i) bytes (R5, R26); no reserved bit set in MXCSR nor in its initial value
(R24); the instruction pointer within its width (R13). -/
structure State.Inv (s : State) : Prop where
  mem_wf : s.mem.wf = true
  xcr0_bit63 : s.xcr0.getLsbD 63 = false
  xcr0_supported : s.xcr0 &&& ~~~s.platform.xcr0Supported = 0
  init_sizes : ∀ i, 2 ≤ i → i ≤ 62 → s.platform.xcr0Supported.getLsbD i = true →
    (s.platform.ext i).init.length = (s.platform.ext i).size
  comp_sizes : ∀ i, 2 ≤ i → i ≤ 62 → s.platform.xcr0Supported.getLsbD i = true →
    (s.comp i).length = (s.platform.ext i).size
  mxcsr_init_legal : mxcsrLegal s.platform mxcsrInit = true
  mxcsr_legal : mxcsrLegal s.platform s.mxcsr = true
  pc_width : lowBits s.pcWidth s.pc = s.pc

/-! ## When an XRSTOR completes (R161) -/

/-- An image that R140 step 7 lists: the x87 state, MXCSR, the XMM registers, a component. -/
inductive ImageName where
  | x87 | mxcsr | xmm | component (i : Nat)
  deriving DecidableEq, Repr

/-- The image's place in the order of R140 step 7: x87, MXCSR, XMM, components in increasing i. -/
def ImageName.rank : ImageName → Nat
  | .x87 => 0
  | .mxcsr => 1
  | .xmm => 2
  | .component i => i + 3

/-- The image is one that an XRSTOR with header `h` reads (R49). -/
def ImageName.IsRead (s : State) (h : Header) : ImageName → Prop
  | .x87 => (h.toBeRestored s.rfbm).getLsbD 0 = true
  | .mxcsr => h.loadsMxcsr s.rfbm = true
  | .xmm => (h.toBeRestored s.rfbm).getLsbD 1 = true
  | .component i => 2 ≤ i ∧ i ≤ 62 ∧ (h.toBeRestored s.rfbm).getLsbD i = true

/-- Offset `o` lies in the range. -/
def InRange (r : ByteRange) (o : Nat) : Prop := r.offset ≤ o ∧ o < r.offset + r.length

/-- Area offset `o` is one of the image's bytes (R43, R44, R45, R49). -/
def ImageName.Has (s : State) (h : Header) : ImageName → Nat → Prop
  | .x87, o => ∃ r ∈ s.platform.layout.x87, InRange r o
  | .mxcsr, o => InRange s.platform.layout.mxcsr o
  | .xmm, o => ∃ j : Fin 16, j.val < s.nxmm ∧ InRange s.platform.layout.xmm[j] o
  | .component i, o =>
    componentOffset s.platform h i ≤ o ∧ o < componentOffset s.platform h i + (s.platform.ext i).size

/-- Area offset `o` is one that an XRSTOR with header `h` reads: a byte of the header, or of an image it reads (R49). -/
def InFootprint (s : State) (h : Header) (o : Nat) : Prop :=
  (512 ≤ o ∧ o < 576) ∨ ∃ image : ImageName, image.IsRead s h ∧ image.Has s h o

/-- Byte `o` of the operand may be addressed and read: neither an address fault nor a page fault (R124 to R128, R131). -/
def Readable (s : State) (op : Operand) (o : Nat) : Prop :=
  byteAddressable s op o = true ∧ ∃ a, translate s .read (linearAt s op o) = .physical a

/-- The header of a standard-form area is accepted: XCR0 has every bit of XSTATE_BV, and header bytes 23:8 are zero
(R133, R134). -/
def StandardHeaderOk (s : State) (op : Operand) (h : Header) : Prop :=
  (∀ b, b < 64 → h.xstateBv.getLsbD b = true → s.xcr0.getLsbD b = true) ∧
  (∀ o, 520 ≤ o → o < 536 → areaByte s op o = 0)

/-- The header of a compacted area is accepted: the form is supported, XCR0 has every component bit of XCOMP_BV, XCOMP_BV
has every bit of XSTATE_BV, and header bytes 63:16 are zero (R132, R135, R136, R137). -/
def CompactedHeaderOk (s : State) (op : Operand) (h : Header) : Prop :=
  s.platform.cpuidXsavec = true ∧
  (∀ b, b < 63 → h.xcompBv.getLsbD b = true → s.xcr0.getLsbD b = true) ∧
  (∀ b, b < 64 → h.xstateBv.getLsbD b = true → h.xcompBv.getLsbD b = true) ∧
  (∀ o, 528 ≤ o → o < 576 → areaByte s op o = 0)

/-- What R161 asks for an XRSTOR to complete, each point the negation of an exception condition, for an operand and the
header at it. What must be readable is the footprint of R49, the spec's decision D13 (log entry 15). -/
structure CompletesAt (s : State) (i : Instr) (op : Operand) (h : Header) : Prop where
  no_lock : Prefix.lock ∉ i.prefixes
  xsave : s.platform.cpuidXsave = true
  osxsave : s.osxsave = true
  ts_clear : s.ts = false
  aligned : (areaBase s op).toNat % 64 = 0
  readable : ∀ o, InFootprint s h o → Readable s op o
  header_standard : h.xcompBv.getLsbD 63 = false → StandardHeaderOk s op h
  header_compacted : h.xcompBv.getLsbD 63 = true → CompactedHeaderOk s op h
  mxcsr_legal : h.loadsMxcsr s.rfbm = true →
    ∀ b, b < 32 → (loadMxcsr s op).getLsbD b = true → s.platform.mxcsrMask.getLsbD b = true

/-- The XRSTOR `i` has everything it needs to complete in state `s` (R161). -/
def Completes (s : State) (i : Instr) : Prop := CompletesAt s i (operandOf s i) (readHeader s (operandOf s i))

/-- The header at an instruction's operand (R84). -/
def headerOf (s : State) (i : Instr) : Header := readHeader s (operandOf s i)

/-- None of the three conditions of #UD holds (R120, R121, R122). -/
def NoUd (s : State) (i : Instr) : Prop :=
  Prefix.lock ∉ i.prefixes ∧ s.platform.cpuidXsave = true ∧ s.cr4.getLsbD 18 = true

/-- Steps 1 to 5 of R140 pass: the header has been read. -/
structure HeaderRead (s : State) (i : Instr) : Prop where
  no_ud : NoUd s i
  ts_clear : s.cr0.getLsbD 3 = false
  aligned : (areaBase s (operandOf s i)).toNat % 64 = 0
  readable : ∀ o, 512 ≤ o → o < 576 → Readable s (operandOf s i) o

/-- Byte `o` of the operand is out of reach: its effective address is above FFFFH in real-address mode (R126), its linear
address is not canonical in 64-bit mode (R127, R128), its effective address is outside the segment's limit in the other
modes (R124, R125). -/
def OutOfReach (s : State) (i : Instr) (o : Nat) : Prop :=
  match s.mode with
  | .real => 0xFFFF < (effectiveAddress s i).toNat + o
  | .long64 => canonical s.platform.vaBits (linearAt s (operandOf s i) o) = false
  | .prot | .v86 | .compat =>
    (effectiveAddress s i).toNat + o < (s.segs.get (segmentOf i)).floor.toNat ∨
      (s.segs.get (segmentOf i)).limit.toNat < (effectiveAddress s i).toNat + o

/-- The exception of a byte out of reach as the mode's list writes it: #GP without an error code in real-address mode,
#SS(0) through SS, else #GP(0) (R124 to R128). -/
def modeReach (s : State) (i : Instr) : Fault :=
  if s.mode = .real then .gp none else if segmentOf i = .ss then .ss 0 else .gp (some 0)

/-- The header is one that its form accepts: step 6 of R140 passes. -/
def HeaderOk (s : State) (i : Instr) : Prop :=
  ((headerOf s i).xcompBv.getLsbD 63 = false → StandardHeaderOk s (operandOf s i) (headerOf s i)) ∧
  ((headerOf s i).xcompBv.getLsbD 63 = true → CompactedHeaderOk s (operandOf s i) (headerOf s i))

/-- The general-protection exception as the mode's list writes it: no error code in real-address mode, else 0 (R139). -/
def modeGp (s : State) : Fault := .gp (if s.mode = .real then none else some 0)

/-! ## The two instructions -/

/-- The form that `Restore` is called with (R80, R81). -/
def formOf : Instr → Form
  | .xrstor _ _ _ => .xrstor
  | .xrstor64 _ _ _ => .xrstor64

/-- The mode has the instruction: XRSTOR every mode, XRSTOR64 64-bit mode (R3). -/
def Supported (s : State) : Instr → Prop
  | .xrstor _ _ _ => True
  | .xrstor64 _ _ _ => s.mode = .long64

/-- A displacement as a signed number, 0 where there is none (R67, R68). -/
def dispInt : Disp → Int
  | .none => 0
  | .disp8 d => d.toInt
  | .disp16 d => d.toInt
  | .disp32 d => d.toInt

/-! ## Runs (R162) -/

/-- `k` completed steps lead from one state to another, and before each of them the pointer is not yet `stop`. -/
inductive StepsTo (stop : Word64) : Nat → State → State → Prop where
  | here (s : State) : StepsTo stop 0 s s
  | next {k : Nat} {s t u : State} : s.pc ≠ stop → step s = .next t → StepsTo stop k t u → StepsTo stop (k + 1) s u

/-! ## Which exceptions a mode has (R139) -/

/-- The mode's exception list has this exception, with this error code: #SS and #GP as R139 lists them, #GP without one
in real-address mode by the spec's decision D21 (log entry 14), #AC with the 0 of R130 and R142, the spec's G14. -/
def Mode.lists : Mode → Fault → Bool
  | _, .ud => true
  | _, .nm => true
  | .real, .gp code => code == none
  | .real, _ => false
  | _, .gp code => code == some 0
  | _, .ss code => code == 0
  | _, .pf _ _ => true
  | _, .ac code => code == 0

end Sys2Proof.Machine
end

