-- ==== Sys2Proof/Certificates/Slice0/Obligations.lean ====
section
/-! DEFINITION. The statements about the model. Each docstring names the rule of spec/ it formalises; a statement that
rests on a choice of the model's says so and names the log entry. In every statement `op` is the memory operand and `h`
the header found at it. -/

open Sys2Proof Sys2Proof.Machine

/-! ## Completion, and the source's OPERATION -/

/-- R82, R161: when everything R161 asks for holds, XRSTOR completes, and the state is the one that the source's
OPERATION (R86 to R97), run statement after statement, leaves. Beside the source's text that state has the instruction
pointer's advance (the spec's decision D14), the legacy layout (D4, log entry 11), NXMM (D18, log entry 12), and what
must be readable is the footprint of D13 (log entry 15). -/
def Obligations.XrstorCompletesWithTheSourceOperation : Prop :=
  ∀ (ps : List Prefix) (rex : Option RexBits) (m : MemOperand) (s : State), Completes s (.xrstor ps rex m) →
    exec (.xrstor ps rex m) s = .next (operation .xrstor s (.xrstor ps rex m))

/-- R81, R82, R161: the same of XRSTOR64, in 64-bit mode, with the 64-bit pointers of the spec's decision D8 (log entry
11). Beside the source's text the state has the instruction pointer's advance (D14), the legacy layout (D4, log entry
11), NXMM (D18, log entry 12), and what must be readable is the footprint of D13 (log entry 15). -/
def Obligations.XrstorSixtyFourCompletesWithTheSourceOperation : Prop :=
  ∀ (ps : List Prefix) (q : RexBits) (m : MemOperand) (s : State), s.mode = .long64 →
    Completes s (.xrstor64 ps q m) →
    exec (.xrstor64 ps q m) s = .next (operation .xrstor64 s (.xrstor64 ps q m))

/-- R161: neither instruction completes unless every requirement holds. That what must be readable is every byte of the
footprint of R49 is the spec's decision D13 (log entry 15), under the layout of its decision D4 (log entry 11). -/
def Obligations.CompletionNeedsEveryRequirement : Prop :=
  ∀ (i : Instr) (s t : State), exec i s = .next t → Completes s i

/-- R86 to R99: the restored state in closed form is the one the source's OPERATION computes with its branches and its
loops FOR i ← 2 TO 62, for every header, legal or not. Both sides read the legacy region by the parameter of D4 (log
entry 11), count XMM registers by D18 (log entry 12) and advance the instruction pointer by D14. -/
def Obligations.RestoredStateIsTheSourceOperation : Prop :=
  ∀ (form : Form) (s : State) (i : Instr), operation form s i = restored form s i

/-- R3, R65: outside 64-bit mode XRSTOR64 is not encodable; the model refuses the term by name. The refusal is log entry
19. -/
def Obligations.XrstorSixtyFourIsRefusedOutsideLongMode : Prop :=
  ∀ (ps : List Prefix) (q : RexBits) (m : MemOperand) (s : State), s.mode ≠ .long64 →
    exec (.xrstor64 ps q m) s = .refused .notEncodable

/-! ## The invariant -/

/-- Every step keeps the invariant: memory canonical, XCR0_WF (R160), every supported component's image of SIZE(i) bytes
(R26), MXCSR without reserved bits (R24), the instruction pointer within its width (R13). -/
def Obligations.StepKeepsTheInvariant : Prop :=
  ∀ s t : State, s.Inv → step s = .next t → t.Inv

/-- The state after reset, whose values are the model's (log entries 2 to 5), meets the invariant. -/
def Obligations.ResetMeetsTheInvariant : Prop := State.reset.Inv

/-- R160: under the reset values of R33 (general knowledge; log entry 3) the first XRSTOR after reset raises #UD, because
CR4.OSXSAVE is 0. -/
def Obligations.FirstXrstorAfterResetRaisesUd : Prop :=
  step (State.reset.withFetchWord 24 0x0FAE28) = .fault .ud

/-! ## Encoding -/

/-- R60 to R72: the bytes of a well-formed instruction decode to it, whatever follows them. -/
def Obligations.DecodeOfEncode : Prop :=
  ∀ (c : CodeSize) (i : Instr) (rest : List Byte), i.wf c = true → decode c (encode i ++ rest) = .ok (i, rest)

/-- R60 to R72: what decodes is well-formed, and the bytes consumed are exactly its encoding, at most 15 of them. -/
def Obligations.EncodeOfDecode : Prop :=
  ∀ (c : CodeSize) (bs : List Byte) (i : Instr) (rest : List Byte), decode c bs = .ok (i, rest) →
    i.wf c = true ∧ bs = encode i ++ rest ∧ (encode i).length ≤ 15

/-- R61, R62: whatever decodes has the bytes 0F AE after its prefixes, then a ModRM byte with reg = 5 and mod not 11:
one of 28H..2FH, 68H..6FH, A8H..AFH. That /5 means reg = 5 is the spec's general knowledge (G1), and R62 derives the
range from it. -/
def Obligations.DecodedBytesHaveTheOpcode : Prop :=
  ∀ (c : CodeSize) (bs : List Byte) (i : Instr) (rest : List Byte), decode c bs = .ok (i, rest) →
    ∃ (front : List Byte) (modrm : Byte) (back : List Byte),
      bs = front ++ 0x0F :: 0xAE :: modrm :: back ∧
      front.length = i.prefixes.length + (if i.rex.isSome then 1 else 0) ∧
      ((0x28 ≤ modrm.toNat ∧ modrm.toNat ≤ 0x2F) ∨ (0x68 ≤ modrm.toNat ∧ modrm.toNat ≤ 0x6F) ∨
        (0xA8 ≤ modrm.toNat ∧ modrm.toNat ≤ 0xAF))

/-- R65: XRSTOR decodes in code of every size; XRSTOR64 decodes in 64-bit mode and never elsewhere. The words are 0F AE 28
(R61, R62) and 48 0F AE 28 (R64); the REX byte's value and place are the spec's general knowledge (G2). -/
def Obligations.XrstorSixtyFourDecodesOnlyInLongMode : Prop :=
  (∀ (c : CodeSize) (rest : List Byte), ∃ m, decode c (0x0F :: 0xAE :: 0x28 :: rest) = .ok (.xrstor [] none m, rest)) ∧
  (∀ rest : List Byte, ∃ q m, decode .code64 (0x48 :: 0x0F :: 0xAE :: 0x28 :: rest) = .ok (.xrstor64 [] q m, rest)) ∧
  (∀ (c : CodeSize) (bs : List Byte) (ps : List Prefix) (q : RexBits) (m : MemOperand) (rest : List Byte),
    decode c bs = .ok (.xrstor64 ps q m, rest) → c = .code64)

/-- R62, R63, R73: after any prefixes that the code size admits (segment, address-size and LOCK prefixes, and in 64-bit
mode REX bytes, also directly before what follows), a byte 66H, F2H or F3H is refused; so is 0F AE with reg other than
5; so is 0F AE /5 with mod = 11. The verdicts are the spec's decision D26. -/
def Obligations.NeighbouringEncodingsAreRefused : Prop :=
  ∀ (c : CodeSize) (ps : List Prefix) (rest : List Byte), ps.all (Prefix.wf c) = true →
    (∀ b : Byte, (b = 0x66 ∨ b = 0xF2 ∨ b = 0xF3) →
      decode c (ps.map encodePrefix ++ b :: rest) = .error (.mandatoryPrefix b)) ∧
    (∀ modrm : Byte, modrm &&& 0x38 ≠ 0x28 →
      decode c (ps.map encodePrefix ++ 0x0F :: 0xAE :: modrm :: rest) = .error (.otherGroup (field53 modrm))) ∧
    (∀ modrm : Byte, modrm &&& 0xF8 = 0xE8 →
      decode c (ps.map encodePrefix ++ 0x0F :: 0xAE :: modrm :: rest) = .error (.registerForm (field20 modrm)))

/-- A few words written out from the encoding rules R60 to R69 decode to what they stand for. -/
def Obligations.WrittenWordsDecode : Prop :=
  decode .code64 [0x0F, 0xAE, 0x2B] = .ok (.xrstor [] none (.base 3 .none), []) ∧
  decode .code64 [0x48, 0x0F, 0xAE, 0x2B] = .ok (.xrstor64 [] ⟨false, false, false⟩ (.base 3 .none), []) ∧
  decode .code64 [0x42, 0x0F, 0xAE, 0x2C, 0x23] =
    .ok (.xrstor [] (some ⟨false, true, false⟩) (.sib 0 4 3 .none), []) ∧
  decode .code32 [0x0F, 0xAE, 0x2D, 0x00, 0x30, 0x00, 0x00] = .ok (.xrstor [] none (.direct32 0x3000), []) ∧
  decode .code16 [0x0F, 0xAE, 0x6E, 0x40] = .ok (.xrstor [] none (.regs16 .bp (.disp8 0x40)), [])

/-- R9, R10, R73: a step runs the instruction that the bytes at the instruction pointer decode to, and adds nothing to it;
where they do not decode, the step is refused, with the decoder's reason. Bytes that end before the instruction does are
refused as not to be fetched, or, where all 15 are there, as too long (R72). Fetching and the names of the refusals are
the model's (log entry 10). -/
def Obligations.StepRunsTheDecodedInstruction : Prop :=
  ∀ s : State,
    (∀ (i : Instr) (rest : List Byte), decode s.codeSize (fetchBytes s) = .ok (i, rest) → step s = exec i s) ∧
    (∀ e : DecodeError, decode s.codeSize (fetchBytes s) = .error e →
      step s = .refused
        (if e = .truncated then
          if (fetchBytes s).length < 15 then .fetchUnavailable else .notXrstor .tooLong
        else .notXrstor e))

/-- R9, R13: when the bytes at the instruction pointer are those of a well-formed instruction, a step runs it, whatever
follows and whether or not what follows can be fetched. Fetching is log entry 10. -/
def Obligations.EncodedBytesAtThePointerRun : Prop :=
  ∀ (s : State) (i : Instr), i.wf s.codeSize = true →
    (∀ k, k < i.length → fetchByte s k = (encode i)[k]?) → step s = exec i s

/-! ## Operands -/

/-- R7, R83: RFBM is XCR0 AND EDX:EAX, with EDX in bits 63:32 and EAX in bits 31:0; the upper halves of RDX and RAX do
not enter it. That EDX is the high half is the spec's decision D2. -/
def Obligations.RfbmIsXcrZeroAndMask : Prop :=
  ∀ s : State,
    s.edxEax.toNat = ((s.reg rdx).toNat % 2 ^ 32) * 2 ^ 32 + (s.reg rax).toNat % 2 ^ 32 ∧
    ∀ b, b < 64 → s.rfbm.getLsbD b =
      (s.xcr0.getLsbD b && (if b < 32 then (s.reg rax).getLsbD b else (s.reg rdx).getLsbD (b - 32)))

/-- R67: with address size W, in either instruction, a base register (extended by REX.B) and a displacement address `reg +
sext(disp)` modulo 2^W, zero-extended. The spec's general knowledge G3. -/
def Obligations.BaseAddressing : Prop :=
  ∀ (s : State) (i : Instr) (r : BitVec 3) (d : Disp), i.mem = .base r d →
    ((effectiveAddress s i).toNat : Int) =
      ((s.reg (extendReg (rexB i) r)).toNat + dispInt d) % 2 ^ addrWidth (i.addrSize s.codeSize)

/-- R67, R69: in either instruction a SIB byte addresses base + index * 2^scale + displacement modulo 2^W, with every
displacement or none; X:index = 0100 is no index; base 101 with mod 00 is no base and a 32-bit displacement. The spec's
general knowledge G3. -/
def Obligations.SibAddressing : Prop :=
  ∀ (s : State) (i : Instr) (scale : BitVec 2) (index : BitVec 3),
    (∀ (b : BitVec 3) (d : Disp), i.mem = .sib scale index b d →
      ((effectiveAddress s i).toNat : Int) =
        ((s.reg (extendReg (rexB i) b)).toNat +
          (if rexX i = false ∧ index = 4 then 0 else (s.reg (extendReg (rexX i) index)).toNat * 2 ^ scale.toNat) +
          dispInt d) % 2 ^ addrWidth (i.addrSize s.codeSize)) ∧
    (∀ d : BitVec 32, i.mem = .sibNoBase scale index d →
      ((effectiveAddress s i).toNat : Int) =
        ((if rexX i = false ∧ index = 4 then 0 else (s.reg (extendReg (rexX i) index)).toNat * 2 ^ scale.toNat) +
          d.toInt) % 2 ^ addrWidth (i.addrSize s.codeSize))

/-- R67: in either instruction a 32-bit offset alone is RIP-relative in 64-bit mode (from the next instruction; truncated
to 32 bits with 67H) and absolute in 32-bit addressing elsewhere. The spec's general knowledge G3. -/
def Obligations.OffsetAloneAddressing : Prop :=
  ∀ (s : State) (i : Instr) (d : BitVec 32), i.mem = .direct32 d →
    (s.mode = .long64 → Prefix.addressSize ∉ i.prefixes →
      ((effectiveAddress s i).toNat : Int) = (s.pc.toNat + i.length + d.toInt) % 2 ^ 64) ∧
    (s.mode = .long64 → Prefix.addressSize ∈ i.prefixes →
      ((effectiveAddress s i).toNat : Int) = (s.pc.toNat + i.length + d.toInt) % 2 ^ 32) ∧
    (s.mode ≠ .long64 → i.addrSize s.codeSize = .a32 → (effectiveAddress s i).toNat = d.toNat)

/-- R68: with address size 16 each of the eight register sums of BX, BP, SI and DI, with every displacement or none, is
modulo 2^16, and a 16-bit offset alone is the address. The spec's general knowledge G4. -/
def Obligations.SixteenBitAddressing : Prop :=
  ∀ (s : State) (i : Instr), i.addrSize s.codeSize = .a16 →
    (∀ e : BitVec 16, i.mem = .direct16 e → (effectiveAddress s i).toNat = e.toNat) ∧
    (∀ (r : Regs16) (d : Disp), i.mem = .regs16 r d →
      ((effectiveAddress s i).toNat : Int) =
        ((match r with
          | .bxSi => ((s.reg rbx).toNat : Int) + (s.reg rsi).toNat
          | .bxDi => (s.reg rbx).toNat + (s.reg rdi).toNat
          | .bpSi => (s.reg rbp).toNat + (s.reg rsi).toNat
          | .bpDi => (s.reg rbp).toNat + (s.reg rdi).toNat
          | .si => (s.reg rsi).toNat
          | .di => (s.reg rdi).toNat
          | .bp => (s.reg rbp).toNat
          | .bx => (s.reg rbx).toNat) + dispInt d) % 2 ^ 16)

/-- R70, of both instructions: the segment is the one the last override names; without an override it is SS exactly when
the base register is the stack or frame pointer (registers 4 and 5; BP in 16-bit forms), else DS. The spec's general
knowledge G5; that "last" is taken over all six overrides in 64-bit mode too is the model's (log entry 22). -/
def Obligations.SegmentOfAnOperand : Prop :=
  ∀ i : Instr,
    (∀ (ps qs : List Prefix) (r : SegReg), i.prefixes = ps ++ .segment r :: qs → (∀ r', Prefix.segment r' ∉ qs) →
      segmentOf i = r) ∧
    ((∀ r', Prefix.segment r' ∉ i.prefixes) →
      segmentOf i =
        match i.mem with
        | .regs16 .bpSi _ => .ss
        | .regs16 .bpDi _ => .ss
        | .regs16 .bp _ => .ss
        | .base r _ => if rexB i = false ∧ (r = 4 ∨ r = 5) then .ss else .ds
        | .sib _ _ b _ => if rexB i = false ∧ (b = 4 ∨ b = 5) then .ss else .ds
        | _ => .ds)

/-- R48: the linear address of byte o of an operand is selector * 16 + ea + o modulo 2^32 in real-address mode, the
segment's base + ea + o modulo 2^32 in protected, virtual-8086 and compatibility mode, and in 64-bit mode ea + o modulo
2^64, with a base for FS and GS only. The arithmetic is the spec's general knowledge (R48, G25). -/
def Obligations.LinearAddressOfAByte : Prop :=
  ∀ (s : State) (op : Operand) (o : Nat),
    (linearAt s op o).toNat =
      match s.mode, op.seg with
      | .real, r => ((s.segs.get r).selector.toNat * 16 + op.ea.toNat + o) % 2 ^ 32
      | .long64, .fs => (s.segs.fs.base.toNat + op.ea.toNat + o) % 2 ^ 64
      | .long64, .gs => (s.segs.gs.base.toNat + op.ea.toNat + o) % 2 ^ 64
      | .long64, _ => (op.ea.toNat + o) % 2 ^ 64
      | _, r => ((s.segs.get r).base.toNat + op.ea.toNat + o) % 2 ^ 32

/-! ## The XSAVE area -/

/-- R41, R46: bit b of XSTATE_BV is bit `b mod 8` of the byte at area offset `512 + b div 8`, and bit b of XCOMP_BV of
the byte at `520 + b div 8`; so the form selector is bit 7 of the byte at offset 527. The byte order and the header's
place are the spec's decisions D1 and D3. -/
def Obligations.HeaderBitsInMemory : Prop :=
  ∀ (s : State) (op : Operand),
    (∀ b, b < 64 → (readHeader s op).xstateBv.getLsbD b = (areaByte s op (512 + b / 8)).getLsbD (b % 8)) ∧
    (∀ b, b < 64 → (readHeader s op).xcompBv.getLsbD b = (areaByte s op (520 + b / 8)).getLsbD (b % 8)) ∧
    (readHeader s op).compacted = (areaByte s op 527).getLsbD 7

/-- R45: with no component aligned, CompactOffset(FORMAT, i) is 576 plus the sizes of the components k with 2 <= k < i
and FORMAT[k] = 1. ALIGN64 is the spec's decision D6. -/
def Obligations.CompactOffsetIsASumOfSizes : Prop :=
  ∀ (p : Platform) (format : Word64) (i : Nat), (∀ k, 2 ≤ k → k ≤ i → (p.ext k).align64 = false) → 2 ≤ i →
    compactOffset p format i =
      576 + (((List.range' 2 (i - 2)).filter (fun k => format.getLsbD k)).map (fun k => (p.ext k).size)).sum

/-- R43: the tag of physical register p is 11 where the abridged bit is 0; else 01 for a zero, 10 for a NaN, infinity,
denormal or unsupported value, 00 otherwise, of ST(k) with p = (k + TOP) mod 8. The abridged tag lies where the
parameter LEGACY_LAYOUT says, the spec's decision D4 (log entry 11). -/
def Obligations.TagWordFromTheAbridgedTag : Prop :=
  ∀ (form : Form) (s : State) (op : Operand) (k : Fin 8),
    let x := loadX87 form s op
    let p := (k.val + (x.fsw.toNat / 2 ^ 11) % 8) % 8
    let v : Nat := (x.st[k]).toNat
    let e : Nat := v / 2 ^ 64 % 2 ^ 15
    (x.ftw.toNat / 4 ^ p) % 4 =
      if (areaRead s op s.platform.layout.ftw.offset s.platform.layout.ftw.length).getLsbD p = false then 3
      else if v % 2 ^ 79 = 0 then 1
      else if e = 0 ∨ e = 0x7FFF ∨ v / 2 ^ 63 % 2 = 0 then 2
      else 0

/-- R43, R49: under the default LEGACY_LAYOUT (1) the fields that both forms load are the bytes R43 names, bit by bit, least
significant byte first, the abridged tag of physical register p, empty (11) or not, is bit p of byte 4, and the x87
pointers and selectors are as the form has them; (2) the bytes read are the header 512..575;
0..23 and 32..159 where component 0 is restored; 24..27 where MXCSR is loaded; 160..160 + 16*NXMM - 1 where component 1
is restored; and SIZE(i) bytes of each restored component i. R43's table is the spec's general knowledge (D4, log entry
11), the two forms' pointers its decision D8, the byte order D1, the footprint D13 (log entry 15), NXMM D18. -/
def Obligations.LegacyRegionUnderTheDefaultLayout : Prop :=
  (∀ (form : Form) (s : State) (op : Operand), s.platform.layout = fxsaveLayout →
    let x := loadX87 form s op
    let bit : Nat → Nat → Bool := fun o b => (areaByte s op (o + b / 8)).getLsbD (b % 8)
    (∀ b, b < 16 → x.fcw.getLsbD b = bit 0 b) ∧
    (∀ b, b < 16 → x.fsw.getLsbD b = bit 2 b) ∧
    (∀ p, p < 8 → ((x.ftw.toNat / 4 ^ p) % 4 = 3 ↔ bit 4 p = false)) ∧
    (∀ b, b < 11 → x.fop.getLsbD b = bit 6 b) ∧
    (∀ (k : Fin 8) (b : Nat), b < 80 → (x.st[k]).getLsbD b = bit (32 + 16 * k.val) b) ∧
    (∀ b, b < 32 → (loadMxcsr s op).getLsbD b = bit 24 b) ∧
    (∀ j b, j < 16 → b < 128 → (loadXmm s op j).getLsbD b = bit (160 + 16 * j) b) ∧
    match form with
    | .xrstor64 => x.fcs = 0 ∧ x.fds = 0 ∧
        ∀ b, b < 64 → x.fip.getLsbD b = bit 8 b ∧ x.fdp.getLsbD b = bit 16 b
    | .xrstor => (∀ b, b < 16 → x.fcs.getLsbD b = bit 12 b ∧ x.fds.getLsbD b = bit 20 b) ∧
        ∀ b, b < 64 → x.fip.getLsbD b = (decide (b < 32) && bit 8 b) ∧
          x.fdp.getLsbD b = (decide (b < 32) && bit 16 b)) ∧
  (∀ (s : State) (h : Header) (o : Nat), s.platform.layout = fxsaveLayout →
    (InFootprint s h o ↔
      (512 ≤ o ∧ o < 576) ∨
      ((h.toBeRestored s.rfbm).getLsbD 0 = true ∧ (o < 24 ∨ (32 ≤ o ∧ o < 160))) ∨
      (h.loadsMxcsr s.rfbm = true ∧ 24 ≤ o ∧ o < 28) ∨
      ((h.toBeRestored s.rfbm).getLsbD 1 = true ∧ 160 ≤ o ∧ o < 160 + 16 * (if s.mode = .long64 then 16 else 8)) ∨
      ∃ i, 2 ≤ i ∧ i ≤ 62 ∧ (h.toBeRestored s.rfbm).getLsbD i = true ∧
        componentOffset s.platform h i ≤ o ∧ o < componentOffset s.platform h i + (s.platform.ext i).size))

/-- R48: an address is canonical exactly when its bits 63 down to VA_BITS - 1 are all equal. VA_BITS is the spec's
decision D25. -/
def Obligations.CanonicalMeansTopBitsEqual : Prop :=
  ∀ (vaBits : Nat) (la : Word64), 1 ≤ vaBits → vaBits ≤ 64 →
    (canonical vaBits la = true ↔ ∀ b, vaBits - 1 ≤ b → b < 64 → la.getLsbD b = la.getLsbD 63)

/-! ## The masks -/

/-- R86: the standard form's masks; they are disjoint and their union is RFBM. That they are disjoint with union RFBM is
the spec's own inference (R86 `[derived]`). -/
def Obligations.StandardMasks : Prop :=
  ∀ (h : Header) (rfbm : Word64), h.xcompBv.getLsbD 63 = false →
    h.toBeRestored rfbm = rfbm &&& h.xstateBv ∧
    h.toBeInitialized rfbm = rfbm &&& ~~~h.xstateBv ∧
    h.toBeRestored rfbm &&& h.toBeInitialized rfbm = 0 ∧
    h.toBeRestored rfbm ||| h.toBeInitialized rfbm = rfbm

/-- R92: the compacted form's masks, with FORMAT = XCOMP_BV without its bit 63; they are disjoint and their union is
RFBM; and where XSTATE_BV has no bit outside XCOMP_BV (else R136 faults), TO_BE_RESTORED is RFBM AND RSTORMASK on the
component bits, those below 63. The last is the spec's own inference (R92 `[derived: from rule R136]`). -/
def Obligations.CompactedMasks : Prop :=
  ∀ (h : Header) (rfbm : Word64), h.xcompBv.getLsbD 63 = true →
    (∀ b, b < 63 → h.format.getLsbD b = h.xcompBv.getLsbD b) ∧ h.format.getLsbD 63 = false ∧
    h.toBeRestored rfbm = rfbm &&& h.format &&& h.xstateBv ∧
    h.toBeInitialized rfbm = rfbm &&& ~~~(h.format &&& h.xstateBv) ∧
    h.toBeRestored rfbm &&& h.toBeInitialized rfbm = 0 ∧
    h.toBeRestored rfbm ||| h.toBeInitialized rfbm = rfbm ∧
    (h.xstateBv &&& ~~~h.xcompBv = 0 →
      ∀ b, b < 63 → (h.toBeRestored rfbm).getLsbD b = (rfbm.getLsbD b && h.xstateBv.getLsbD b))

/-! ## What a completed XRSTOR leaves -/

/-- R87: the standard form loads component 0 where RFBM[0] and XSTATE_BV[0] are 1, initializes it where only RFBM[0] is,
and else leaves it; XINUSE[0] follows. -/
def Obligations.StandardFormSetsTheX87State : Prop :=
  ∀ (i : Instr) (s : State), Supported s i → Completes s i → (headerOf s i).xcompBv.getLsbD 63 = false →
    ∃ t, exec i s = .next t ∧
      t.x87 = (if (s.rfbm &&& (headerOf s i).xstateBv).getLsbD 0 then loadX87 (formOf i) s (operandOf s i)
        else if (s.rfbm &&& ~~~(headerOf s i).xstateBv).getLsbD 0 then s.platform.x87Init else s.x87) ∧
      t.xinuse.getLsbD 0 = (if (s.rfbm &&& (headerOf s i).xstateBv).getLsbD 0 then true
        else if (s.rfbm &&& ~~~(headerOf s i).xstateBv).getLsbD 0 then false else s.xinuse.getLsbD 0)

/-- R88: the standard form loads MXCSR from its bytes of the area (27:24 under the default layout) whenever RFBM[1] or
RFBM[2] is 1, whatever XSTATE_BV[1] is; else MXCSR is unchanged. An image with a reserved bit raises #GP instead (R138),
in each mode as R139 lists it: error code 0, and no error code in real-address mode, where R88 and R138 write #GP(0) and
the spec's decision D21 follows R139 (log entry 14). The bytes are where the parameter LEGACY_LAYOUT says, the spec's
decision D4 (log entry 11). -/
def Obligations.StandardFormLoadsMxcsr : Prop :=
  ∀ (i : Instr) (s : State) (image : Word32), Supported s i → (headerOf s i).xcompBv.getLsbD 63 = false →
    image = (areaRead s (operandOf s i) s.platform.layout.mxcsr.offset s.platform.layout.mxcsr.length).setWidth 32 →
    (Completes s i → ∃ t, exec i s = .next t ∧
      t.mxcsr = (if s.rfbm.getLsbD 1 = true ∨ s.rfbm.getLsbD 2 = true then image else s.mxcsr)) ∧
    ((s.rfbm.getLsbD 1 = true ∨ s.rfbm.getLsbD 2 = true) → HeaderRead s i →
      StandardHeaderOk s (operandOf s i) (headerOf s i) →
      (∀ o, InFootprint s (headerOf s i) o → Readable s (operandOf s i) o) →
      image &&& ~~~s.platform.mxcsrMask ≠ 0 → exec i s = .fault (modeGp s))

/-- R89: the standard form loads XMM0 to XMM(NXMM-1) from their bytes of the area (from 160 + 16 j on under the default
layout), or sets them to 0, or leaves them; the others never change; XINUSE[1] follows. NXMM is the spec's decision D18,
the bytes are where the parameter LEGACY_LAYOUT says, its decision D4 (log entry 11). -/
def Obligations.StandardFormSetsTheXmmRegisters : Prop :=
  ∀ (i : Instr) (s : State), Supported s i → Completes s i → (headerOf s i).xcompBv.getLsbD 63 = false →
    ∃ t, exec i s = .next t ∧
      (∀ j : Fin 16, t.xmm[j] =
        (if (if s.mode = .long64 then 16 else 8) ≤ j.val then s.xmm[j]
        else if (s.rfbm &&& (headerOf s i).xstateBv).getLsbD 1 then
          (areaRead s (operandOf s i) s.platform.layout.xmm[j].offset s.platform.layout.xmm[j].length).setWidth 128
        else if (s.rfbm &&& ~~~(headerOf s i).xstateBv).getLsbD 1 then 0 else s.xmm[j])) ∧
      t.xinuse.getLsbD 1 = (if (s.rfbm &&& (headerOf s i).xstateBv).getLsbD 1 then true
        else if (s.rfbm &&& ~~~(headerOf s i).xstateBv).getLsbD 1 then false else s.xinuse.getLsbD 1)

/-- R90: for each i from 2 to 62 the standard form loads COMP[i] from the SIZE(i) bytes at OFFSET(i), or initializes it
to INIT(i), or leaves it; XINUSE[i] follows. That the standard form loads SIZE(i) bytes is the spec's own inference (R44,
C5; log entry 16), and that a component is its image COMP[i] is its decision D5. -/
def Obligations.StandardFormSetsTheComponents : Prop :=
  ∀ (i : Instr) (s : State), Supported s i → Completes s i → (headerOf s i).xcompBv.getLsbD 63 = false →
    ∃ t, exec i s = .next t ∧ ∀ k, 2 ≤ k → k ≤ 62 →
      t.comp k = (if (s.rfbm &&& (headerOf s i).xstateBv).getLsbD k then
          areaBytes s (operandOf s i) (s.platform.ext k).offset (s.platform.ext k).size
        else if (s.rfbm &&& ~~~(headerOf s i).xstateBv).getLsbD k then (s.platform.ext k).init else s.comp k) ∧
      t.xinuse.getLsbD k = (if (s.rfbm &&& (headerOf s i).xstateBv).getLsbD k then true
        else if (s.rfbm &&& ~~~(headerOf s i).xstateBv).getLsbD k then false else s.xinuse.getLsbD k)

/-- R93: the compacted form does the same for component 0 with its own masks, so that RFBM[0] = 1 without FORMAT[0]
initializes. -/
def Obligations.CompactedFormSetsTheX87State : Prop :=
  ∀ (i : Instr) (s : State), Supported s i → Completes s i → (headerOf s i).xcompBv.getLsbD 63 = true →
    ∃ t, exec i s = .next t ∧
      t.x87 = (if s.rfbm.getLsbD 0 = false then s.x87
        else if (headerOf s i).xcompBv.getLsbD 0 = true ∧ (headerOf s i).xstateBv.getLsbD 0 = true then
          loadX87 (formOf i) s (operandOf s i)
        else s.platform.x87Init) ∧
      t.xinuse.getLsbD 0 = (if s.rfbm.getLsbD 0 = false then s.xinuse.getLsbD 0
        else (headerOf s i).xcompBv.getLsbD 0 && (headerOf s i).xstateBv.getLsbD 0)

/-- R94: the compacted form loads the XMM registers and MXCSR together, or sets them to 0 and 1F80H, or leaves both,
whatever RFBM[2] is; XINUSE[1] follows. NXMM is the spec's decision D18; the bytes (24 and 160 + 16 j on under the
default layout) are where the parameter LEGACY_LAYOUT says, its decision D4 (log entry 11). -/
def Obligations.CompactedFormSetsTheSseState : Prop :=
  ∀ (i : Instr) (s : State), Supported s i → Completes s i → (headerOf s i).xcompBv.getLsbD 63 = true →
    ∃ t, exec i s = .next t ∧
      (∀ j : Fin 16, t.xmm[j] =
        (if (if s.mode = .long64 then 16 else 8) ≤ j.val ∨ s.rfbm.getLsbD 1 = false then s.xmm[j]
        else if (headerOf s i).xcompBv.getLsbD 1 = true ∧ (headerOf s i).xstateBv.getLsbD 1 = true then
          (areaRead s (operandOf s i) s.platform.layout.xmm[j].offset s.platform.layout.xmm[j].length).setWidth 128
        else 0)) ∧
      t.mxcsr = (if s.rfbm.getLsbD 1 = false then s.mxcsr
        else if (headerOf s i).xcompBv.getLsbD 1 = true ∧ (headerOf s i).xstateBv.getLsbD 1 = true then
          (areaRead s (operandOf s i) s.platform.layout.mxcsr.offset s.platform.layout.mxcsr.length).setWidth 32
        else 0x1F80) ∧
      t.xinuse.getLsbD 1 = (if s.rfbm.getLsbD 1 = false then s.xinuse.getLsbD 1
        else (headerOf s i).xcompBv.getLsbD 1 && (headerOf s i).xstateBv.getLsbD 1)

/-- R45, R95, with ALIGN64 false (the default): for each k from 2 to 62 the compacted form loads COMP[k] from SIZE(k)
bytes at 576 plus the sizes of the components below k that FORMAT names, or initializes it (also where FORMAT[k] is 0),
or leaves it; XINUSE[k] follows. ALIGN64 is the spec's decision D6. -/
def Obligations.CompactedFormSetsTheComponents : Prop :=
  ∀ (i : Instr) (s : State), Supported s i → Completes s i → (headerOf s i).xcompBv.getLsbD 63 = true →
    (∀ k, 2 ≤ k → k ≤ 62 → (s.platform.ext k).align64 = false) →
    ∃ t, exec i s = .next t ∧ ∀ k, 2 ≤ k → k ≤ 62 →
      t.comp k = (if s.rfbm.getLsbD k = false then s.comp k
        else if (headerOf s i).xcompBv.getLsbD k = true ∧ (headerOf s i).xstateBv.getLsbD k = true then
          areaBytes s (operandOf s i)
            (576 + (((List.range' 2 (k - 2)).filter (fun j => (headerOf s i).xcompBv.getLsbD j)).map
              (fun j => (s.platform.ext j).size)).sum)
            (s.platform.ext k).size
        else (s.platform.ext k).init) ∧
      t.xinuse.getLsbD k = (if s.rfbm.getLsbD k = false then s.xinuse.getLsbD k
        else (headerOf s i).xcompBv.getLsbD k && (headerOf s i).xstateBv.getLsbD k)

/-- R96, R97: every completed execution, one that requests nothing included, sets XMODIFIED_BV to NOT RFBM in all 64
bits and XRSTOR_INFO to (CPL, VMXNR, linear address of byte 0 of the area, XCOMP_BV). -/
def Obligations.TrackingStateIsRecorded : Prop :=
  ∀ (i : Instr) (s : State), Supported s i → Completes s i →
    ∃ t, exec i s = .next t ∧
      (∀ b, b < 64 → t.xmodifiedBv.getLsbD b = !s.rfbm.getLsbD b) ∧
      t.xrstorInfo = { cpl := s.cpl, vmxnr := s.vmxNonRoot, laxa := areaBase s (operandOf s i),
                       compmask := (headerOf s i).xcompBv }

/-- R42: the COMPMASK that a completed standard-form XRSTOR stores is 0. -/
def Obligations.StandardFormStoresCompmaskZero : Prop :=
  ∀ (i : Instr) (s t : State), exec i s = .next t → (headerOf s i).xcompBv.getLsbD 63 = false →
    t.xrstorInfo.compmask = 0

/-- R13, R99: a completed XRSTOR advances the instruction pointer by its length, modulo 2^W: 64 bits in 64-bit mode, 16
in real-address mode, else as the code segment says. The spec's decision D14. -/
def Obligations.InstructionPointerAdvances : Prop :=
  ∀ (i : Instr) (s : State), Supported s i → Completes s i →
    ∃ t, exec i s = .next t ∧
      t.pc.toNat = (s.pc.toNat + (encode i).length) %
        2 ^ (if s.mode = .long64 then 64 else if s.mode = .real then 16 else if s.code32 then 32 else 16)

/-- R34, R12, R14: the frame of both instructions. General registers, flags, mode, control registers, XCR0, segment
registers and every byte of memory are unchanged; so is each component not requested, but for MXCSR in the standard form
with RFBM[2] = 1, and XMM8 to XMM15 outside 64-bit mode. NXMM is the spec's decision D18. -/
def Obligations.EverythingElseIsUnchanged : Prop :=
  ∀ (i : Instr) (s t : State), exec i s = .next t →
    t.gpr = s.gpr ∧ t.rflags = s.rflags ∧ t.mode = s.mode ∧ t.code32 = s.code32 ∧ t.codeCpl = s.codeCpl ∧
    t.vmxNonRoot = s.vmxNonRoot ∧ t.cr0 = s.cr0 ∧ t.cr4 = s.cr4 ∧ t.xcr0 = s.xcr0 ∧ t.segs = s.segs ∧
    t.platform = s.platform ∧ t.translations = s.translations ∧
    (∀ a, t.mem.read a = s.mem.read a) ∧
    (s.rfbm.getLsbD 0 = false → t.x87 = s.x87) ∧
    (s.rfbm.getLsbD 1 = false → t.xmm = s.xmm) ∧
    (s.mode ≠ .long64 → ∀ j : Fin 16, 8 ≤ j.val → t.xmm[j] = s.xmm[j]) ∧
    (s.rfbm.getLsbD 1 = false → (s.rfbm.getLsbD 2 = false ∨ (headerOf s i).xcompBv.getLsbD 63 = true) →
      t.mxcsr = s.mxcsr) ∧
    (∀ k, 2 ≤ k → k ≤ 62 → s.rfbm.getLsbD k = false → t.comp k = s.comp k) ∧
    (∀ k, k < 63 → s.rfbm.getLsbD k = false → t.xinuse.getLsbD k = s.xinuse.getLsbD k)

/-- R101: after a completed execution XINUSE[k] of a requested component says whether it was loaded: in the standard form
XSTATE_BV[k], in the compacted form XCOMP_BV[k] and XSTATE_BV[k]. -/
def Obligations.XinuseSaysWhatWasLoaded : Prop :=
  ∀ (i : Instr) (s : State), Supported s i → Completes s i →
    ∃ t, exec i s = .next t ∧ ∀ k, k < 63 →
      t.xinuse.getLsbD k =
        (if s.rfbm.getLsbD k = false then s.xinuse.getLsbD k
        else (headerOf s i).xstateBv.getLsbD k &&
          (!(headerOf s i).xcompBv.getLsbD 63 || (headerOf s i).xcompBv.getLsbD k))

/-- R104: with RFBM = 0 a completed execution changes only the tracking values and the instruction pointer. -/
def Obligations.RequestingNothingChangesOnlyTracking : Prop :=
  ∀ (i : Instr) (s : State), Supported s i → Completes s i → s.rfbm = 0 →
    exec i s = .next { s with
      xmodifiedBv := 0xFFFFFFFFFFFFFFFF
      xrstorInfo := { cpl := s.cpl, vmxnr := s.vmxNonRoot, laxa := areaBase s (operandOf s i),
                      compmask := (headerOf s i).xcompBv }
      pc := s.nextPc i.length }

/-- R104: restoring the same area twice gives the same result: run again from where it left, with the instruction
pointer put back, the instruction leaves the same state. -/
def Obligations.RestoringTwiceIsRestoringOnce : Prop :=
  ∀ (i : Instr) (s t : State), exec i s = .next t → exec i { t with pc := s.pc } = .next t

/-! ## Runs -/

/-- R162, with R9, R141 and R165: a run of at most n steps ends with the instruction pointer at the program's end, or at
the first fault or refusal, in the state in which that step began; else all n steps have been taken and it has not
ended. Each time the steps before the end completed, and before none of them was the pointer at the end. The run's end
is the spec's decision D16 (log entry 24). -/
def Obligations.RunEndsAtTheEndOrTheFirstStop : Prop :=
  ∀ (stop : Word64) (n : Nat) (s : State),
    match runUntil stop n s with
    | .finished t => t.pc = stop ∧ ∃ k, k ≤ n ∧ StepsTo stop k s t
    | .fault f t => t.pc ≠ stop ∧ step t = .fault f ∧ ∃ k, k < n ∧ StepsTo stop k s t
    | .refused r t => t.pc ≠ stop ∧ step t = .refused r ∧ ∃ k, k < n ∧ StepsTo stop k s t
    | .running t => t.pc ≠ stop ∧ StepsTo stop n s t

/-! ## What cannot influence the result -/

/-- R49: bytes of memory outside the footprint have no influence. When the memory is replaced by one that agrees on
every byte of the footprint, the outcome is the same, but for the replaced memory in the next state. The footprint is
the spec's decision D13 (log entry 15). -/
def Obligations.OnlyTheFootprintIsRead : Prop :=
  ∀ (i : Instr) (s : State) (m : Memory),
    (∀ o, InFootprint s (headerOf s i) o → areaByte { s with mem := m } (operandOf s i) o = areaByte s (operandOf s i) o) →
    exec i { s with mem := m } =
      match exec i s with
      | .next t => .next { t with mem := m }
      | .fault f => .fault f
      | .refused r => .refused r

/-- R11, R83: the upper halves of RAX and RDX are ignored. Two register files with the same low halves of RAX and RDX and
the same effective address give the same outcome, but for the register file. -/
def Obligations.UpperHalvesOfTheMaskAreIgnored : Prop :=
  ∀ (i : Instr) (s : State) (g : Vector Word64 16),
    effectiveAddress { s with gpr := g } i = effectiveAddress s i →
    (State.reg { s with gpr := g } rax).setWidth 32 = (s.reg rax).setWidth 32 →
    (State.reg { s with gpr := g } rdx).setWidth 32 = (s.reg rdx).setWidth 32 →
    exec i { s with gpr := g } =
      match exec i s with
      | .next t => .next { t with gpr := g }
      | .fault f => .fault f
      | .refused r => .refused r

/-- R145: the privilege level gates nothing. With alignment checking off, and where data reads translate alike at both
levels, another level gives the same outcome, but for the level itself and the one recorded in XRSTOR_INFO. -/
def Obligations.PrivilegeLevelGatesNothing : Prop :=
  ∀ (i : Instr) (s : State) (level : BitVec 2), s.acEnabled = false →
    (∀ la, Machine.translate { s with codeCpl := level } .read la = Machine.translate s .read la) →
    exec i { s with codeCpl := level } =
      match exec i s with
      | .next t => .next { t with
          codeCpl := level
          xrstorInfo := { t.xrstorInfo with cpl := State.cpl { s with codeCpl := level } } }
      | .fault f => .fault f
      | .refused r => .refused r

/-- R81 (the spec's decision D8): with the same operand in 64-bit mode XRSTOR64 and XRSTOR raise the same exceptions and
leave the same state, but for the x87 pointers: when component 0 is loaded, XRSTOR64 takes FIP and FDP as 64-bit offsets
from where LEGACY_LAYOUT has them (D4, log entry 11) and sets FCS and FDS to 0. -/
def Obligations.TheTwoFormsDifferInTheX87Pointers : Prop :=
  ∀ (ps : List Prefix) (q : RexBits) (m : MemOperand) (s : State), s.mode = .long64 →
    exec (.xrstor64 ps q m) s =
      match exec (.xrstor ps (some q) m) s with
      | .next t => .next { t with
          x87 :=
            if ((headerOf s (.xrstor64 ps q m)).toBeRestored s.rfbm).getLsbD 0 then
              { t.x87 with
                fip := legacyField s (operandOf s (.xrstor64 ps q m)) s.platform.layout.fip64 64, fcs := 0
                fdp := legacyField s (operandOf s (.xrstor64 ps q m)) s.platform.layout.fdp64 64, fds := 0 }
            else t.x87 }
      | .fault f => .fault f
      | .refused r => .refused r

/-! ## Exceptions -/

/-- R120, R121, R122: #UD is raised exactly when the LOCK prefix is used, CR4.OSXSAVE[bit 18] is 0, or the processor has
no XSAVE feature set, in every mode. That nothing precedes #UD is the spec's decision D9. -/
def Obligations.UdExactlyWhen : Prop :=
  ∀ (i : Instr) (s : State), Supported s i →
    (exec i s = .fault .ud ↔
      Prefix.lock ∈ i.prefixes ∨ s.cr4.getLsbD 18 = false ∨ s.platform.cpuidXsave = false)

/-- R123, R140: #NM is raised exactly when CR0.TS[bit 3] is 1 and #UD is not raised, whatever RFBM and the operand are.
That #UD precedes #NM is the spec's decision D9. -/
def Obligations.NmExactlyWhen : Prop :=
  ∀ (i : Instr) (s : State), Supported s i →
    (exec i s = .fault .nm ↔ NoUd s i ∧ s.cr0.getLsbD 3 = true)

/-- R124 to R128, R140 step 3: when a byte of the header is out of reach, the exception is #GP without an error code in
real-address mode, #SS(0) through SS, #GP(0) otherwise; the byte is out of reach when its effective address is above
FFFFH in real-address mode, its linear address not canonical in 64-bit mode, its effective address outside the segment's
limit in the other modes. The order of the checks is the spec's decision D9, the form of the limit log entry 8. -/
def Obligations.HeaderOutOfReachFaults : Prop :=
  ∀ (i : Instr) (s : State) (o : Nat), Supported s i → NoUd s i → s.cr0.getLsbD 3 = false → 512 ≤ o → o < 576 →
    OutOfReach s i o → exec i s = .fault (modeReach s i)

/-- R125, R128: #SS is raised only outside real-address mode, through SS, for a byte XRSTOR reads that may not be
addressed, with error code 0. That the bytes read are the footprint of R49 is the spec's decision D13 (log entry 15),
under the layout of its decision D4 (log entry 11). -/
def Obligations.StackFaultOnlyThroughSs : Prop :=
  ∀ (i : Instr) (s : State) (code : ErrorCode), exec i s = .fault (.ss code) →
    code = 0 ∧ s.mode ≠ .real ∧ segmentOf i = .ss ∧
    ∃ o, InFootprint s (headerOf s i) o ∧ byteAddressable s (operandOf s i) o = false

/-- R130: a misaligned operand always faults; where the header may be addressed and neither #UD nor #NM is raised, with
#AC where the mode is not real-address, CR0.AM and EFLAGS.AC are 1, CPL is 3 and the implementation's AC_CHOICE says so,
else with #GP. What enables the check is the spec's decision D28, the order of the checks D9. -/
def Obligations.MisalignedOperandFaults : Prop :=
  ∀ (i : Instr) (s : State), Supported s i → (areaBase s (operandOf s i)).toNat % 64 ≠ 0 →
    (∃ f, exec i s = .fault f) ∧
    (NoUd s i → s.cr0.getLsbD 3 = false →
      (∀ o, 512 ≤ o → o < 576 → byteAddressable s (operandOf s i) o = true) →
      exec i s = .fault
        (if s.mode ≠ .real ∧ s.cr0.getLsbD 18 = true ∧ s.rflags.getLsbD 18 = true ∧ s.cpl = 3 ∧
            s.platform.acChoice.getLsbD ((areaBase s (operandOf s i)).toNat % 64) = true
          then .ac 0 else modeGp s))

/-- R131: a page fault names a byte XRSTOR reads, with the code its translation gives, and never arises in real-address
mode; and an aligned, addressable header one of whose bytes page-faults raises a page fault of a header byte. Which
faulting byte is reported is a parameter (log entry 13); that the bytes read are the footprint of R49 is the spec's
decision D13 (log entry 15), under the layout of its decision D4 (log entry 11). -/
def Obligations.PageFaultNamesAFaultingByte : Prop :=
  (∀ (i : Instr) (s : State) (code : ErrorCode) (la : Word64), exec i s = .fault (.pf code la) →
    s.mode ≠ .real ∧ ∃ o, InFootprint s (headerOf s i) o ∧ la = linearAt s (operandOf s i) o ∧
      translate s .read la = .pageFault code) ∧
  (∀ (i : Instr) (s : State), Supported s i → NoUd s i → s.cr0.getLsbD 3 = false →
    (∀ o, 512 ≤ o → o < 576 → byteAddressable s (operandOf s i) o = true) →
    (areaBase s (operandOf s i)).toNat % 64 = 0 →
    (∃ o, 512 ≤ o ∧ o < 576 ∧ ∃ code, translate s .read (linearAt s (operandOf s i) o) = .pageFault code) →
    ∃ o code, 512 ≤ o ∧ o < 576 ∧ exec i s = .fault (.pf code (linearAt s (operandOf s i) o)))

/-- R140 step 7: once the header is accepted, the images are checked in the order x87, MXCSR, XMM, components in
increasing i, each first for bytes out of reach and then for page faults. So for an image that is read, all images
before it readable: a byte of it out of reach raises the mode's address exception; and with every byte in reach, a byte
that page-faults raises #PF, with the code and the linear address of such a byte. The order is the spec's decision D9,
which of several faulting bytes is reported a parameter (log entry 13), the images D4, D13 (log entries 11, 15). -/
def Obligations.ImageFaultsInTheOrderOfTheImages : Prop :=
  ∀ (i : Instr) (s : State) (image : ImageName), Supported s i → HeaderRead s i → HeaderOk s i →
    image.IsRead s (headerOf s i) →
    (∀ before : ImageName, before.IsRead s (headerOf s i) → before.rank < image.rank →
      ∀ o, before.Has s (headerOf s i) o → Readable s (operandOf s i) o) →
    ((∃ o, image.Has s (headerOf s i) o ∧ OutOfReach s i o) → exec i s = .fault (modeReach s i)) ∧
    ((∀ o, image.Has s (headerOf s i) o → ¬ OutOfReach s i o) →
      (∃ o code, image.Has s (headerOf s i) o ∧ translate s .read (linearAt s (operandOf s i) o) = .pageFault code) →
      ∃ o code, image.Has s (headerOf s i) o ∧
        translate s .read (linearAt s (operandOf s i) o) = .pageFault code ∧
        exec i s = .fault (.pf code (linearAt s (operandOf s i) o)))

/-- R133, R134: once the header has been read, a standard-form header with a bit of XSTATE_BV that XCR0 lacks (of all 64,
requested or not), or with header bytes 23:8 not all zero, raises #GP in every mode. The images need not be readable:
that the header's content comes before them is the spec's decision D9 (log entry 13); that #GP has no error code in
real-address mode is D21 (log entry 14). -/
def Obligations.StandardHeaderFaults : Prop :=
  ∀ (i : Instr) (s : State), Supported s i → HeaderRead s i → (headerOf s i).xcompBv.getLsbD 63 = false →
    ((∃ b, b < 64 ∧ (headerOf s i).xstateBv.getLsbD b = true ∧ s.xcr0.getLsbD b = false) ∨
      (∃ o, 520 ≤ o ∧ o < 536 ∧ areaByte s (operandOf s i) o ≠ 0)) →
    exec i s = .fault (modeGp s)

/-- R132, R135, R136, R137: once the header has been read, a compacted-form header raises #GP in every mode when the
processor lacks XSAVEC, when a component bit of XCOMP_BV is one that XCR0 lacks, when a bit of XSTATE_BV is one that
XCOMP_BV lacks, or when header bytes 63:16 are not all zero. The images need not be readable: that the header's content
comes before them is the spec's decision D9 (log entry 13); that #GP has no error code in real-address mode is D21 (log
entry 14). -/
def Obligations.CompactedHeaderFaults : Prop :=
  ∀ (i : Instr) (s : State), Supported s i → HeaderRead s i → (headerOf s i).xcompBv.getLsbD 63 = true →
    (s.platform.cpuidXsavec = false ∨
      (∃ b, b < 63 ∧ (headerOf s i).xcompBv.getLsbD b = true ∧ s.xcr0.getLsbD b = false) ∨
      (∃ b, b < 64 ∧ (headerOf s i).xstateBv.getLsbD b = true ∧ (headerOf s i).xcompBv.getLsbD b = false) ∨
      (∃ o, 528 ≤ o ∧ o < 576 ∧ areaByte s (operandOf s i) o ≠ 0)) →
    exec i s = .fault (modeGp s)

/-- R138: when the execution would load MXCSR (standard form: RFBM[1] or RFBM[2]; compacted form: component 1 restored)
and its image sets a reserved bit, #GP is raised, once every earlier check has passed; when it would not load MXCSR, the
image is not examined. The image lies where the parameter LEGACY_LAYOUT says (27:24 by default), the spec's decision D4
(log entry 11); that the bytes to be readable are the footprint of R49 is D13 (log entry 15); that #GP has no error code
in real-address mode is D21 (log entry 14). -/
def Obligations.MxcsrReservedBitFaults : Prop :=
  ∀ (i : Instr) (s : State), Supported s i → HeaderRead s i → HeaderOk s i →
    (∀ o, InFootprint s (headerOf s i) o → Readable s (operandOf s i) o) →
    (if (if (headerOf s i).xcompBv.getLsbD 63 = false then s.rfbm.getLsbD 1 || s.rfbm.getLsbD 2
          else s.rfbm.getLsbD 1 && (headerOf s i).xcompBv.getLsbD 1 && (headerOf s i).xstateBv.getLsbD 1) = true ∧
        (areaRead s (operandOf s i) s.platform.layout.mxcsr.offset s.platform.layout.mxcsr.length).setWidth 32 &&&
          ~~~s.platform.mxcsrMask ≠ 0
      then exec i s = .fault (modeGp s) else ∃ t, exec i s = .next t)

/-- R139: an XRSTOR raises only exceptions that the list of its mode has. The error codes of #SS and #GP are those the
list gives, and that #GP has none in real-address mode is the spec's decision D21 (log entry 14). The list gives #AC no
error code (R130: the source prints it bare): its code 0 is the spec's general knowledge G14, in R130 and R142. -/
def Obligations.ExceptionsAreTheModesOwn : Prop :=
  ∀ (i : Instr) (s : State) (f : Fault), exec i s = .fault f → s.mode.lists f = true
end

