-- ==== Sys2Proof/Laws/Bytes.lean ====
section
/-! SUPPORT. Byte order and bit fields of the decoder and the encoder: what is split comes back together. -/

namespace Sys2Proof

/-- `leBytes` writes as many bytes as asked. -/
@[simp] theorem leBytes_length (n v : Nat) : (leBytes n v).length = n := by
  induction n generalizing v with
  | zero => rfl
  | succ n ih => simp [leBytes, ih]

/-- Reading back the bytes of a number gives it, modulo what the bytes can hold. -/
theorem leNat_leBytes (n v : Nat) : leNat (leBytes n v) = v % 256 ^ n := by
  induction n generalizing v with
  | zero => simp [leBytes, leNat, Nat.mod_one]
  | succ n ih =>
    simp only [leBytes, leNat, ih, BitVec.toNat_ofNat]
    rw [show (256 : Nat) ^ (n + 1) = 256 * 256 ^ n from Nat.pow_succ', Nat.mod_mul]

/-- A byte string's number is below 256 to its length. -/
theorem leNat_lt (bs : List Byte) : leNat bs < 256 ^ bs.length := by
  induction bs with
  | nil => simp [leNat]
  | cons b bs ih =>
    have := b.isLt
    simp only [leNat, List.length_cons, Nat.pow_succ]
    omega

/-- A byte string's number is zero exactly when every byte is. -/
theorem leNat_eq_zero_iff {bs : List Byte} : leNat bs = 0 ↔ ∀ b ∈ bs, b = 0 := by
  induction bs with
  | nil => simp [leNat]
  | cons b bs ih =>
    simp only [leNat, List.mem_cons, forall_eq_or_imp]
    rw [← ih, show (b = 0) ↔ b.toNat = 0 by rw [BitVec.toNat_eq]; simp]
    omega

/-- Bit `b` of a byte string's number is bit `b mod 8` of byte `b / 8`. -/
theorem leNat_testBit (bs : List Byte) (b : Nat) :
    (leNat bs).testBit b = ((bs[b / 8]?).getD 0).getLsbD (b % 8) := by
  induction bs generalizing b with
  | nil => simp [leNat]
  | cons x bs ih =>
    simp only [leNat]
    rw [Nat.add_comm, show 256 = 2 ^ 8 by rfl, Nat.testBit_two_pow_mul_add _ x.isLt]
    by_cases h : b < 8
    · rw [if_pos h, Nat.div_eq_of_lt h, Nat.mod_eq_of_lt h]
      rfl
    · rw [if_neg h, ih, show b / 8 = (b - 8) / 8 + 1 by omega, show (b - 8) % 8 = b % 8 by omega]
      rfl

/-- The same of the value with `w` bits. -/
theorem leBits_getLsbD {w b : Nat} (bs : List Byte) (h : b < w) :
    (leBits w bs).getLsbD b = ((bs[b / 8]?).getD 0).getLsbD (b % 8) := by
  unfold leBits
  rw [BitVec.getLsbD_ofNat, leNat_testBit]
  simp [h]

/-- The two bytes of a 16-bit value. -/
theorem leBytes_two (d : BitVec 16) : leBytes 2 d.toNat = [d.extractLsb' 0 8, d.extractLsb' 8 8] := by
  have h0 : BitVec.ofNat 8 d.toNat = d.extractLsb' 0 8 := by apply BitVec.eq_of_toNat_eq; simp
  have h1 : BitVec.ofNat 8 (d.toNat / 256) = d.extractLsb' 8 8 := by
    apply BitVec.eq_of_toNat_eq
    simp [Nat.shiftRight_eq_div_pow]
  simp only [leBytes, h0, h1]

/-- The four bytes of a 32-bit value. -/
theorem leBytes_four (d : BitVec 32) :
    leBytes 4 d.toNat = [d.extractLsb' 0 8, d.extractLsb' 8 8, d.extractLsb' 16 8, d.extractLsb' 24 8] := by
  have h0 : BitVec.ofNat 8 d.toNat = d.extractLsb' 0 8 := by apply BitVec.eq_of_toNat_eq; simp
  have h1 : BitVec.ofNat 8 (d.toNat / 256) = d.extractLsb' 8 8 := by
    apply BitVec.eq_of_toNat_eq
    simp [Nat.shiftRight_eq_div_pow]
  have h2 : BitVec.ofNat 8 (d.toNat / 256 / 256) = d.extractLsb' 16 8 := by
    apply BitVec.eq_of_toNat_eq
    simp [Nat.shiftRight_eq_div_pow]
    omega
  have h3 : BitVec.ofNat 8 (d.toNat / 256 / 256 / 256) = d.extractLsb' 24 8 := by
    apply BitVec.eq_of_toNat_eq
    simp [Nat.shiftRight_eq_div_pow]
    omega
  simp only [leBytes, h0, h1, h2, h3]

/-- A byte is made of its fields. -/
@[simp] theorem fields233_of_fields (b : Byte) : fields233 (field76 b) (field53 b) (field20 b) = b := by
  revert b; decide

/-- The r/m field of a 16-bit register sum, and back. -/
@[simp] theorem rmOfRegs16_regs16OfRm (rm : BitVec 3) : rmOfRegs16 (regs16OfRm rm) = rm := by
  revert rm; decide

@[simp] theorem regs16OfRm_rmOfRegs16 (r : Regs16) : regs16OfRm (rmOfRegs16 r) = r := by
  cases r <;> decide

/-- The fields of a byte made of fields. -/
@[simp] theorem field76_fields233 (hi : BitVec 2) (mid lo : BitVec 3) : field76 (fields233 hi mid lo) = hi := by
  revert hi mid lo; decide

@[simp] theorem field53_fields233 (hi : BitVec 2) (mid lo : BitVec 3) : field53 (fields233 hi mid lo) = mid := by
  revert hi mid lo; decide

@[simp] theorem field20_fields233 (hi : BitVec 2) (mid lo : BitVec 3) : field20 (fields233 hi mid lo) = lo := by
  revert hi mid lo; decide

/-- The encoder writes as many displacement bytes as the displacement has. -/
@[simp] theorem encodeDisp_length (d : Disp) : (encodeDisp d).length = d.length := by
  cases d <;> simp [encodeDisp, Disp.length]

/-- The encoder writes ModRM and the bytes after it. -/
@[simp] theorem encodeMem_length (m : MemOperand) : (encodeMem m).length = 1 + m.length := by
  cases m <;> simp [encodeMem, MemOperand.length] <;> omega

end Sys2Proof
end

