-- ==== Sys2Proof/Laws/State.lean ====
section
/-! SUPPORT. One lemma for each field under each update of the state, true by rfl, so that no later proof unfolds a
record update. -/

namespace Sys2Proof.Machine

/-! ## restoredWith -/

@[simp] theorem restoredWith_gpr (form : Form) (s : State) (len : Nat) (op : Operand) (h : Header) :
    (restoredWith form s len op h).gpr = s.gpr := rfl
@[simp] theorem restoredWith_pc (form : Form) (s : State) (len : Nat) (op : Operand) (h : Header) :
    (restoredWith form s len op h).pc = s.nextPc len := rfl
@[simp] theorem restoredWith_rflags (form : Form) (s : State) (len : Nat) (op : Operand) (h : Header) :
    (restoredWith form s len op h).rflags = s.rflags := rfl
@[simp] theorem restoredWith_mode (form : Form) (s : State) (len : Nat) (op : Operand) (h : Header) :
    (restoredWith form s len op h).mode = s.mode := rfl
@[simp] theorem restoredWith_code32 (form : Form) (s : State) (len : Nat) (op : Operand) (h : Header) :
    (restoredWith form s len op h).code32 = s.code32 := rfl
@[simp] theorem restoredWith_codeCpl (form : Form) (s : State) (len : Nat) (op : Operand) (h : Header) :
    (restoredWith form s len op h).codeCpl = s.codeCpl := rfl
@[simp] theorem restoredWith_vmxNonRoot (form : Form) (s : State) (len : Nat) (op : Operand) (h : Header) :
    (restoredWith form s len op h).vmxNonRoot = s.vmxNonRoot := rfl
@[simp] theorem restoredWith_cr0 (form : Form) (s : State) (len : Nat) (op : Operand) (h : Header) :
    (restoredWith form s len op h).cr0 = s.cr0 := rfl
@[simp] theorem restoredWith_cr4 (form : Form) (s : State) (len : Nat) (op : Operand) (h : Header) :
    (restoredWith form s len op h).cr4 = s.cr4 := rfl
@[simp] theorem restoredWith_xcr0 (form : Form) (s : State) (len : Nat) (op : Operand) (h : Header) :
    (restoredWith form s len op h).xcr0 = s.xcr0 := rfl
@[simp] theorem restoredWith_segs (form : Form) (s : State) (len : Nat) (op : Operand) (h : Header) :
    (restoredWith form s len op h).segs = s.segs := rfl
@[simp] theorem restoredWith_x87 (form : Form) (s : State) (len : Nat) (op : Operand) (h : Header) :
    (restoredWith form s len op h).x87 = newX87 form s op h := rfl
@[simp] theorem restoredWith_xmm (form : Form) (s : State) (len : Nat) (op : Operand) (h : Header) :
    (restoredWith form s len op h).xmm = newXmm s op h := rfl
@[simp] theorem restoredWith_mxcsr (form : Form) (s : State) (len : Nat) (op : Operand) (h : Header) :
    (restoredWith form s len op h).mxcsr = newMxcsr s op h := rfl
@[simp] theorem restoredWith_comps (form : Form) (s : State) (len : Nat) (op : Operand) (h : Header) :
    (restoredWith form s len op h).comps = newComps s op h := rfl
@[simp] theorem restoredWith_xinuse (form : Form) (s : State) (len : Nat) (op : Operand) (h : Header) :
    (restoredWith form s len op h).xinuse = newXinuse s h := rfl
@[simp] theorem restoredWith_xmodifiedBv (form : Form) (s : State) (len : Nat) (op : Operand) (h : Header) :
    (restoredWith form s len op h).xmodifiedBv = ~~~s.rfbm := rfl
@[simp] theorem restoredWith_xrstorInfo (form : Form) (s : State) (len : Nat) (op : Operand) (h : Header) :
    (restoredWith form s len op h).xrstorInfo = newXrstorInfo s op h := rfl
@[simp] theorem restoredWith_platform (form : Form) (s : State) (len : Nat) (op : Operand) (h : Header) :
    (restoredWith form s len op h).platform = s.platform := rfl
@[simp] theorem restoredWith_translations (form : Form) (s : State) (len : Nat) (op : Operand) (h : Header) :
    (restoredWith form s len op h).translations = s.translations := rfl
@[simp] theorem restoredWith_mem (form : Form) (s : State) (len : Nat) (op : Operand) (h : Header) :
    (restoredWith form s len op h).mem = s.mem := rfl

/-! ## setXinuse -/

@[simp] theorem setXinuse_gpr (t : State) (i : Nat) (b : Bool) : (setXinuse t i b).gpr = t.gpr := rfl
@[simp] theorem setXinuse_pc (t : State) (i : Nat) (b : Bool) : (setXinuse t i b).pc = t.pc := rfl
@[simp] theorem setXinuse_rflags (t : State) (i : Nat) (b : Bool) : (setXinuse t i b).rflags = t.rflags := rfl
@[simp] theorem setXinuse_mode (t : State) (i : Nat) (b : Bool) : (setXinuse t i b).mode = t.mode := rfl
@[simp] theorem setXinuse_code32 (t : State) (i : Nat) (b : Bool) : (setXinuse t i b).code32 = t.code32 := rfl
@[simp] theorem setXinuse_codeCpl (t : State) (i : Nat) (b : Bool) : (setXinuse t i b).codeCpl = t.codeCpl := rfl
@[simp] theorem setXinuse_vmxNonRoot (t : State) (i : Nat) (b : Bool) :
    (setXinuse t i b).vmxNonRoot = t.vmxNonRoot := rfl
@[simp] theorem setXinuse_cr0 (t : State) (i : Nat) (b : Bool) : (setXinuse t i b).cr0 = t.cr0 := rfl
@[simp] theorem setXinuse_cr4 (t : State) (i : Nat) (b : Bool) : (setXinuse t i b).cr4 = t.cr4 := rfl
@[simp] theorem setXinuse_xcr0 (t : State) (i : Nat) (b : Bool) : (setXinuse t i b).xcr0 = t.xcr0 := rfl
@[simp] theorem setXinuse_segs (t : State) (i : Nat) (b : Bool) : (setXinuse t i b).segs = t.segs := rfl
@[simp] theorem setXinuse_x87 (t : State) (i : Nat) (b : Bool) : (setXinuse t i b).x87 = t.x87 := rfl
@[simp] theorem setXinuse_xmm (t : State) (i : Nat) (b : Bool) : (setXinuse t i b).xmm = t.xmm := rfl
@[simp] theorem setXinuse_mxcsr (t : State) (i : Nat) (b : Bool) : (setXinuse t i b).mxcsr = t.mxcsr := rfl
@[simp] theorem setXinuse_comps (t : State) (i : Nat) (b : Bool) : (setXinuse t i b).comps = t.comps := rfl
@[simp] theorem setXinuse_xinuse (t : State) (i : Nat) (b : Bool) :
    (setXinuse t i b).xinuse = if b then t.xinuse ||| BitVec.twoPow 63 i else t.xinuse &&& ~~~(BitVec.twoPow 63 i) := rfl
@[simp] theorem setXinuse_xmodifiedBv (t : State) (i : Nat) (b : Bool) :
    (setXinuse t i b).xmodifiedBv = t.xmodifiedBv := rfl
@[simp] theorem setXinuse_xrstorInfo (t : State) (i : Nat) (b : Bool) :
    (setXinuse t i b).xrstorInfo = t.xrstorInfo := rfl
@[simp] theorem setXinuse_platform (t : State) (i : Nat) (b : Bool) : (setXinuse t i b).platform = t.platform := rfl
@[simp] theorem setXinuse_translations (t : State) (i : Nat) (b : Bool) :
    (setXinuse t i b).translations = t.translations := rfl
@[simp] theorem setXinuse_mem (t : State) (i : Nat) (b : Bool) : (setXinuse t i b).mem = t.mem := rfl

/-! ## setComp -/

@[simp] theorem setComp_gpr (t : State) (i : Nat) (image : List Byte) : (setComp t i image).gpr = t.gpr := rfl
@[simp] theorem setComp_pc (t : State) (i : Nat) (image : List Byte) : (setComp t i image).pc = t.pc := rfl
@[simp] theorem setComp_rflags (t : State) (i : Nat) (image : List Byte) :
    (setComp t i image).rflags = t.rflags := rfl
@[simp] theorem setComp_mode (t : State) (i : Nat) (image : List Byte) : (setComp t i image).mode = t.mode := rfl
@[simp] theorem setComp_code32 (t : State) (i : Nat) (image : List Byte) :
    (setComp t i image).code32 = t.code32 := rfl
@[simp] theorem setComp_codeCpl (t : State) (i : Nat) (image : List Byte) :
    (setComp t i image).codeCpl = t.codeCpl := rfl
@[simp] theorem setComp_vmxNonRoot (t : State) (i : Nat) (image : List Byte) :
    (setComp t i image).vmxNonRoot = t.vmxNonRoot := rfl
@[simp] theorem setComp_cr0 (t : State) (i : Nat) (image : List Byte) : (setComp t i image).cr0 = t.cr0 := rfl
@[simp] theorem setComp_cr4 (t : State) (i : Nat) (image : List Byte) : (setComp t i image).cr4 = t.cr4 := rfl
@[simp] theorem setComp_xcr0 (t : State) (i : Nat) (image : List Byte) : (setComp t i image).xcr0 = t.xcr0 := rfl
@[simp] theorem setComp_segs (t : State) (i : Nat) (image : List Byte) : (setComp t i image).segs = t.segs := rfl
@[simp] theorem setComp_x87 (t : State) (i : Nat) (image : List Byte) : (setComp t i image).x87 = t.x87 := rfl
@[simp] theorem setComp_xmm (t : State) (i : Nat) (image : List Byte) : (setComp t i image).xmm = t.xmm := rfl
@[simp] theorem setComp_mxcsr (t : State) (i : Nat) (image : List Byte) : (setComp t i image).mxcsr = t.mxcsr := rfl
@[simp] theorem setComp_comps (t : State) (i : Nat) (image : List Byte) :
    (setComp t i image).comps = t.comps.setIfInBounds (i - 2) image := rfl
@[simp] theorem setComp_xinuse (t : State) (i : Nat) (image : List Byte) :
    (setComp t i image).xinuse = t.xinuse := rfl
@[simp] theorem setComp_xmodifiedBv (t : State) (i : Nat) (image : List Byte) :
    (setComp t i image).xmodifiedBv = t.xmodifiedBv := rfl
@[simp] theorem setComp_xrstorInfo (t : State) (i : Nat) (image : List Byte) :
    (setComp t i image).xrstorInfo = t.xrstorInfo := rfl
@[simp] theorem setComp_platform (t : State) (i : Nat) (image : List Byte) :
    (setComp t i image).platform = t.platform := rfl
@[simp] theorem setComp_translations (t : State) (i : Nat) (image : List Byte) :
    (setComp t i image).translations = t.translations := rfl
@[simp] theorem setComp_mem (t : State) (i : Nat) (image : List Byte) : (setComp t i image).mem = t.mem := rfl

/-! ## setXmm -/

@[simp] theorem setXmm_gpr (t : State) (v : Nat → BitVec 128) : (setXmm t v).gpr = t.gpr := by simp only [setXmm]
@[simp] theorem setXmm_pc (t : State) (v : Nat → BitVec 128) : (setXmm t v).pc = t.pc := by simp only [setXmm]
@[simp] theorem setXmm_rflags (t : State) (v : Nat → BitVec 128) :
    (setXmm t v).rflags = t.rflags := by simp only [setXmm]
@[simp] theorem setXmm_mode (t : State) (v : Nat → BitVec 128) : (setXmm t v).mode = t.mode := by simp only [setXmm]
@[simp] theorem setXmm_code32 (t : State) (v : Nat → BitVec 128) :
    (setXmm t v).code32 = t.code32 := by simp only [setXmm]
@[simp] theorem setXmm_codeCpl (t : State) (v : Nat → BitVec 128) :
    (setXmm t v).codeCpl = t.codeCpl := by simp only [setXmm]
@[simp] theorem setXmm_vmxNonRoot (t : State) (v : Nat → BitVec 128) :
    (setXmm t v).vmxNonRoot = t.vmxNonRoot := by simp only [setXmm]
@[simp] theorem setXmm_cr0 (t : State) (v : Nat → BitVec 128) : (setXmm t v).cr0 = t.cr0 := by simp only [setXmm]
@[simp] theorem setXmm_cr4 (t : State) (v : Nat → BitVec 128) : (setXmm t v).cr4 = t.cr4 := by simp only [setXmm]
@[simp] theorem setXmm_xcr0 (t : State) (v : Nat → BitVec 128) : (setXmm t v).xcr0 = t.xcr0 := by simp only [setXmm]
@[simp] theorem setXmm_segs (t : State) (v : Nat → BitVec 128) : (setXmm t v).segs = t.segs := by simp only [setXmm]
@[simp] theorem setXmm_x87 (t : State) (v : Nat → BitVec 128) : (setXmm t v).x87 = t.x87 := by simp only [setXmm]
@[simp] theorem setXmm_xmm (t : State) (v : Nat → BitVec 128) :
    (setXmm t v).xmm = Vector.ofFn (fun j => if j.val < t.nxmm then v j.val else t.xmm[j]) := by simp only [setXmm]
@[simp] theorem setXmm_mxcsr (t : State) (v : Nat → BitVec 128) :
    (setXmm t v).mxcsr = t.mxcsr := by simp only [setXmm]
@[simp] theorem setXmm_comps (t : State) (v : Nat → BitVec 128) :
    (setXmm t v).comps = t.comps := by simp only [setXmm]
@[simp] theorem setXmm_xinuse (t : State) (v : Nat → BitVec 128) :
    (setXmm t v).xinuse = t.xinuse := by simp only [setXmm]
@[simp] theorem setXmm_xmodifiedBv (t : State) (v : Nat → BitVec 128) :
    (setXmm t v).xmodifiedBv = t.xmodifiedBv := by simp only [setXmm]
@[simp] theorem setXmm_xrstorInfo (t : State) (v : Nat → BitVec 128) :
    (setXmm t v).xrstorInfo = t.xrstorInfo := by simp only [setXmm]
@[simp] theorem setXmm_platform (t : State) (v : Nat → BitVec 128) :
    (setXmm t v).platform = t.platform := by simp only [setXmm]
@[simp] theorem setXmm_translations (t : State) (v : Nat → BitVec 128) :
    (setXmm t v).translations = t.translations := by simp only [setXmm]
@[simp] theorem setXmm_mem (t : State) (v : Nat → BitVec 128) : (setXmm t v).mem = t.mem := by simp only [setXmm]

/-! ## finish -/

@[simp] theorem finish_gpr (op : Operand) (h : Header) (rfbm : Word64) (len : Nat) (t : State) :
    (finish op h rfbm len t).gpr = t.gpr := rfl
@[simp] theorem finish_pc (op : Operand) (h : Header) (rfbm : Word64) (len : Nat) (t : State) :
    (finish op h rfbm len t).pc = t.nextPc len := rfl
@[simp] theorem finish_rflags (op : Operand) (h : Header) (rfbm : Word64) (len : Nat) (t : State) :
    (finish op h rfbm len t).rflags = t.rflags := rfl
@[simp] theorem finish_mode (op : Operand) (h : Header) (rfbm : Word64) (len : Nat) (t : State) :
    (finish op h rfbm len t).mode = t.mode := rfl
@[simp] theorem finish_code32 (op : Operand) (h : Header) (rfbm : Word64) (len : Nat) (t : State) :
    (finish op h rfbm len t).code32 = t.code32 := rfl
@[simp] theorem finish_codeCpl (op : Operand) (h : Header) (rfbm : Word64) (len : Nat) (t : State) :
    (finish op h rfbm len t).codeCpl = t.codeCpl := rfl
@[simp] theorem finish_vmxNonRoot (op : Operand) (h : Header) (rfbm : Word64) (len : Nat) (t : State) :
    (finish op h rfbm len t).vmxNonRoot = t.vmxNonRoot := rfl
@[simp] theorem finish_cr0 (op : Operand) (h : Header) (rfbm : Word64) (len : Nat) (t : State) :
    (finish op h rfbm len t).cr0 = t.cr0 := rfl
@[simp] theorem finish_cr4 (op : Operand) (h : Header) (rfbm : Word64) (len : Nat) (t : State) :
    (finish op h rfbm len t).cr4 = t.cr4 := rfl
@[simp] theorem finish_xcr0 (op : Operand) (h : Header) (rfbm : Word64) (len : Nat) (t : State) :
    (finish op h rfbm len t).xcr0 = t.xcr0 := rfl
@[simp] theorem finish_segs (op : Operand) (h : Header) (rfbm : Word64) (len : Nat) (t : State) :
    (finish op h rfbm len t).segs = t.segs := rfl
@[simp] theorem finish_x87 (op : Operand) (h : Header) (rfbm : Word64) (len : Nat) (t : State) :
    (finish op h rfbm len t).x87 = t.x87 := rfl
@[simp] theorem finish_xmm (op : Operand) (h : Header) (rfbm : Word64) (len : Nat) (t : State) :
    (finish op h rfbm len t).xmm = t.xmm := rfl
@[simp] theorem finish_mxcsr (op : Operand) (h : Header) (rfbm : Word64) (len : Nat) (t : State) :
    (finish op h rfbm len t).mxcsr = t.mxcsr := rfl
@[simp] theorem finish_comps (op : Operand) (h : Header) (rfbm : Word64) (len : Nat) (t : State) :
    (finish op h rfbm len t).comps = t.comps := rfl
@[simp] theorem finish_xinuse (op : Operand) (h : Header) (rfbm : Word64) (len : Nat) (t : State) :
    (finish op h rfbm len t).xinuse = t.xinuse := rfl
@[simp] theorem finish_xmodifiedBv (op : Operand) (h : Header) (rfbm : Word64) (len : Nat) (t : State) :
    (finish op h rfbm len t).xmodifiedBv = ~~~rfbm := rfl
@[simp] theorem finish_xrstorInfo (op : Operand) (h : Header) (rfbm : Word64) (len : Nat) (t : State) :
    (finish op h rfbm len t).xrstorInfo = { cpl := t.cpl, vmxnr := t.vmxNonRoot, laxa := areaBase t op, compmask := h.xcompBv } := rfl
@[simp] theorem finish_platform (op : Operand) (h : Header) (rfbm : Word64) (len : Nat) (t : State) :
    (finish op h rfbm len t).platform = t.platform := rfl
@[simp] theorem finish_translations (op : Operand) (h : Header) (rfbm : Word64) (len : Nat) (t : State) :
    (finish op h rfbm len t).translations = t.translations := rfl
@[simp] theorem finish_mem (op : Operand) (h : Header) (rfbm : Word64) (len : Nat) (t : State) :
    (finish op h rfbm len t).mem = t.mem := rfl

/-! ## placeCode -/

@[simp] theorem placeCode_gpr (s : State) (bs : List Byte) : (placeCode s bs).gpr = s.gpr := rfl
@[simp] theorem placeCode_pc (s : State) (bs : List Byte) : (placeCode s bs).pc = s.pc := rfl
@[simp] theorem placeCode_rflags (s : State) (bs : List Byte) : (placeCode s bs).rflags = s.rflags := rfl
@[simp] theorem placeCode_mode (s : State) (bs : List Byte) : (placeCode s bs).mode = s.mode := rfl
@[simp] theorem placeCode_code32 (s : State) (bs : List Byte) : (placeCode s bs).code32 = s.code32 := rfl
@[simp] theorem placeCode_codeCpl (s : State) (bs : List Byte) : (placeCode s bs).codeCpl = s.codeCpl := rfl
@[simp] theorem placeCode_vmxNonRoot (s : State) (bs : List Byte) : (placeCode s bs).vmxNonRoot = s.vmxNonRoot := rfl
@[simp] theorem placeCode_cr0 (s : State) (bs : List Byte) : (placeCode s bs).cr0 = s.cr0 := rfl
@[simp] theorem placeCode_cr4 (s : State) (bs : List Byte) : (placeCode s bs).cr4 = s.cr4 := rfl
@[simp] theorem placeCode_xcr0 (s : State) (bs : List Byte) : (placeCode s bs).xcr0 = s.xcr0 := rfl
@[simp] theorem placeCode_segs (s : State) (bs : List Byte) : (placeCode s bs).segs = s.segs := rfl
@[simp] theorem placeCode_x87 (s : State) (bs : List Byte) : (placeCode s bs).x87 = s.x87 := rfl
@[simp] theorem placeCode_xmm (s : State) (bs : List Byte) : (placeCode s bs).xmm = s.xmm := rfl
@[simp] theorem placeCode_mxcsr (s : State) (bs : List Byte) : (placeCode s bs).mxcsr = s.mxcsr := rfl
@[simp] theorem placeCode_comps (s : State) (bs : List Byte) : (placeCode s bs).comps = s.comps := rfl
@[simp] theorem placeCode_xinuse (s : State) (bs : List Byte) : (placeCode s bs).xinuse = s.xinuse := rfl
@[simp] theorem placeCode_xmodifiedBv (s : State) (bs : List Byte) :
    (placeCode s bs).xmodifiedBv = s.xmodifiedBv := rfl
@[simp] theorem placeCode_xrstorInfo (s : State) (bs : List Byte) : (placeCode s bs).xrstorInfo = s.xrstorInfo := rfl
@[simp] theorem placeCode_platform (s : State) (bs : List Byte) : (placeCode s bs).platform = s.platform := rfl
@[simp] theorem placeCode_translations (s : State) (bs : List Byte) :
    (placeCode s bs).translations = s.translations.filter (fun row => row.access.kind != .fetch) := rfl
@[simp] theorem placeCode_mem (s : State) (bs : List Byte) : (placeCode s bs).mem = storeCode s s.mem 0 bs := rfl

end Sys2Proof.Machine
end

