-- ==== Sys2Proof/Laws/Ops.lean ====
section
/-! SUPPORT. What each shared operation can do, said once: the first fault of a list, an image's checks, `restore`, and
`exec` of the two instructions. -/

namespace Sys2Proof.Machine

/-! ## The first condition that holds -/

/-- No fault is reported exactly when no condition holds. -/
theorem firstFault_eq_none_iff {fs : List (Option Fault)} : firstFault fs = none ↔ ∀ x ∈ fs, x = none := by
  induction fs with
  | nil => simp [firstFault]
  | cons x fs ih => cases x <;> simp [firstFault, ih]

/-- A reported fault is one of the conditions. -/
theorem firstFault_mem {fs : List (Option Fault)} {f : Fault} (h : firstFault fs = some f) : some f ∈ fs := by
  induction fs with
  | nil => simp [firstFault] at h
  | cons x fs ih =>
    cases x with
    | none => exact List.mem_cons_of_mem _ (ih h)
    | some g => simp only [firstFault, Option.some.injEq] at h; simp [h]

/-- Conditions that do not hold are passed over. -/
@[simp] theorem firstFault_cons_none (fs : List (Option Fault)) : firstFault (none :: fs) = firstFault fs := rfl

/-- The first condition that holds is reported, whatever follows. -/
@[simp] theorem firstFault_cons_some (f : Fault) (fs : List (Option Fault)) : firstFault (some f :: fs) = some f := rfl

/-- Conditions in two parts: the second matters only when no condition of the first holds. -/
theorem firstFault_append (fs gs : List (Option Fault)) :
    firstFault (fs ++ gs) = (firstFault fs).orElse (fun _ => firstFault gs) := by
  induction fs with
  | nil => rfl
  | cons x fs ih => cases x <;> simp [firstFault, ih]

/-! ## The checks of an image -/

/-- An image has no address fault exactly when each of its bytes may be addressed. -/
theorem addressFault_eq_none_iff {s : State} {op : Operand} {image : List Nat} :
    addressFault s op image = none ↔ ∀ o ∈ image, byteAddressable s op o = true := by
  unfold addressFault
  split <;> simp_all

/-- The address fault of an image is the operand's address exception. -/
theorem addressFault_eq_some {s : State} {op : Operand} {image : List Nat} {f : Fault}
    (h : addressFault s op image = some f) :
    f = addressException s op ∧ ∃ o ∈ image, byteAddressable s op o = false := by
  unfold addressFault at h
  split at h
  · simp at h
  · rename_i hall
    simp only [Option.some.injEq] at h
    refine ⟨h.symm, ?_⟩
    simpa using hall

/-- A byte has no page fault exactly when it translates to a physical address. -/
theorem bytePageFault_eq_none_iff {s : State} {op : Operand} {o : Nat} :
    bytePageFault s op o = none ↔ ∃ a, translate s .read (linearAt s op o) = .physical a := by
  unfold bytePageFault
  split <;> simp_all

/-- An image has no page fault exactly when none of its bytes has. -/
theorem pageFault_eq_none_iff {s : State} {op : Operand} {image : List Nat} :
    pageFault s op image = none ↔ ∀ o ∈ image, bytePageFault s op o = none := by
  unfold pageFault
  rw [List.getElem?_eq_none_iff]
  constructor
  · intro h
    have hlen : (image.filterMap (bytePageFault s op)).length = 0 := by
      by_contra hne
      have := Nat.mod_lt s.platform.readOrder (Nat.pos_of_ne_zero hne)
      omega
    simpa [List.filterMap_eq_nil_iff] using List.length_eq_zero_iff.mp hlen
  · intro h
    have : image.filterMap (bytePageFault s op) = [] := List.filterMap_eq_nil_iff.mpr h
    simp [this]

/-- The page fault of an image is that of one of its bytes. -/
theorem pageFault_eq_some {s : State} {op : Operand} {image : List Nat} {f : Fault}
    (h : pageFault s op image = some f) : ∃ o ∈ image, bytePageFault s op o = some f := by
  unfold pageFault at h
  have := List.mem_of_getElem? h
  simpa using this

/-! ## Images -/

/-- An offset is in the image of an access of `n` bytes exactly when it is one of them. -/
theorem mem_span {o n x : Nat} : x ∈ span o n ↔ o ≤ x ∧ x < o + n := by
  simp only [span, List.mem_map, List.mem_range]
  constructor
  · rintro ⟨k, hk, rfl⟩; omega
  · rintro ⟨h1, h2⟩; exact ⟨x - o, by omega, by omega⟩

/-- A read of `n` bytes yields `n` bytes. -/
@[simp] theorem areaBytes_length (s : State) (op : Operand) (o n : Nat) : (areaBytes s op o n).length = n := by
  simp [areaBytes]

/-! ## Restore -/

/-- All that `restore` can do when it completes: no condition held, and the state is the restored one. -/
theorem restore_next_iff {form : Form} {s t : State} {i : Instr} :
    restore form s i = .next t ↔ restoreFault s i = none ∧ t = restored form s i := by
  unfold restore
  cases restoreFault s i <;> simp [raise, eq_comm]

/-- All that `restore` can do when it faults: the first condition that held is raised. -/
theorem restore_fault_iff {form : Form} {s : State} {i : Instr} {f : Fault} :
    restore form s i = .fault f ↔ restoreFault s i = some f := by
  unfold restore
  split <;> simp_all [raise]

/-- `restore` refuses nothing. -/
theorem restore_not_refused {form : Form} {s : State} {i : Instr} {r : Refusal} :
    restore form s i ≠ .refused r := by
  unfold restore
  split <;> simp [raise]

/-! ## exec -/

/-- XRSTOR is the common procedure. -/
theorem exec_xrstor (ps : List Prefix) (rex : Option RexBits) (m : MemOperand) (s : State) :
    exec (.xrstor ps rex m) s = restore .xrstor s (.xrstor ps rex m) := rfl

/-- In 64-bit mode XRSTOR64 is the common procedure. -/
theorem exec_xrstor64 (ps : List Prefix) (q : RexBits) (m : MemOperand) {s : State} (hm : s.mode = .long64) :
    exec (.xrstor64 ps q m) s = restore .xrstor64 s (.xrstor64 ps q m) := by
  simp [exec, execXrstor64, hm]

/-! ## Bits of the closed forms -/

/-- XINUSE bit by bit: set where restored, else cleared where initialized, else unchanged. -/
theorem newXinuse_getLsbD {s : State} {h : Header} {b : Nat} (hb : b < 63) :
    (newXinuse s h).getLsbD b =
      ((s.xinuse.getLsbD b || (h.toBeRestored s.rfbm).getLsbD b) && !(h.toBeInitialized s.rfbm).getLsbD b) := by
  simp [newXinuse, hb]

/-- COMP[i] of the restored state. -/
theorem restoredWith_comp (form : Form) (s : State) (len : Nat) (op : Operand) (h : Header) {i : Nat} (hlo : 2 ≤ i)
    (hhi : i ≤ 62) : (restoredWith form s len op h).comp i = newComp s op h i (s.comp i) := by
  have hlt : i - 2 < 61 := by omega
  have hi : i - 2 + 2 = i := by omega
  have hn : ¬ i < 2 := by omega
  simp [State.comp, newComps, hn, hlt, hi]

end Sys2Proof.Machine
end

