-- ==== Sys2Proof/Laws/Checks.lean ====
section
/-! SUPPORT. What each check of `restore` and each read of the area says, in the terms of Safety.lean: one lemma for each
condition of R140. -/

namespace Sys2Proof.Machine

/-! ## The two instructions -/

/-- Where the mode has the instruction, `exec` is the common procedure. -/
theorem exec_of_supported {i : Instr} {s : State} (h : Supported s i) : exec i s = restore (formOf i) s i := by
  cases i with
  | xrstor ps rex m => rfl
  | xrstor64 ps q m => exact exec_xrstor64 ps q m h

/-- The width of a truncation is the modulus. -/
theorem lowBits_toNat {w : Nat} (hw : w ≤ 64) (v : Word64) : (lowBits w v).toNat = v.toNat % 2 ^ w := by
  unfold lowBits
  simp only [BitVec.toNat_setWidth]
  rw [Nat.mod_eq_of_lt]
  exact Nat.lt_of_lt_of_le (Nat.mod_lt _ (Nat.two_pow_pos w)) (Nat.pow_le_pow_right (by omega) hw)

/-! ## Reads of the area -/

/-- No bit of `x` outside `y`, as a mask test and bit by bit. -/
theorem and_not_eq_zero_iff {w : Nat} (x y : BitVec w) :
    x &&& ~~~y = 0 ↔ ∀ b, b < w → x.getLsbD b = true → y.getLsbD b = true := by
  constructor
  · intro h b hb hx
    have := congrArg (fun v => BitVec.getLsbD v b) h
    simp [hb, hx] at this
    exact this
  · intro h
    apply BitVec.eq_of_getLsbD_eq
    intro b hb
    by_cases hx : x.getLsbD b = true
    · simp [h b hb hx, hb]
    · simp [hx]

/-- A read of the area has no byte other than zero. -/
theorem areaBytes_all_zero_iff {s : State} {op : Operand} {o n : Nat} :
    (areaBytes s op o n).any (· != 0) = false ↔ ∀ x, o ≤ x → x < o + n → areaByte s op x = 0 := by
  simp only [areaBytes, List.any_eq_false, List.mem_map, List.mem_range]
  constructor
  · intro h x h1 h2
    have := h (areaByte s op x) ⟨x - o, by omega, by congr 1; omega⟩
    simpa using this
  · rintro h _ ⟨k, hk, rfl⟩
    simp [h (o + k) (by omega) (by omega)]

/-- A read of the area as a number. -/
theorem areaRead_toNat (s : State) (op : Operand) (o n : Nat) :
    (areaRead s op o n).toNat = leNat (areaBytes s op o n) := by
  unfold areaRead leBits
  rw [BitVec.toNat_ofNat, Nat.mod_eq_of_lt]
  have h := leNat_lt (areaBytes s op o n)
  rwa [areaBytes_length, show 256 = 2 ^ 8 by rfl, ← Nat.pow_mul] at h

/-- A read of the area bit by bit. -/
theorem areaRead_getLsbD {s : State} {op : Operand} {o n b : Nat} (h : b < 8 * n) :
    (areaRead s op o n).getLsbD b = (areaByte s op (o + b / 8)).getLsbD (b % 8) := by
  unfold areaRead areaBytes
  rw [leBits_getLsbD _ h, List.getElem?_map, List.getElem?_range (by omega)]
  rfl

/-- A read of the area is zero exactly when each byte is. -/
theorem areaRead_eq_zero_iff {s : State} {op : Operand} {o n : Nat} :
    areaRead s op o n = 0 ↔ ∀ x, o ≤ x → x < o + n → areaByte s op x = 0 := by
  rw [← areaBytes_all_zero_iff, BitVec.toNat_eq, areaRead_toNat]
  simp [leNat_eq_zero_iff]

/-! ## Each condition -/

/-- No #UD. -/
theorem udFault_eq_none_iff {s : State} {i : Instr} :
    udFault s i = none ↔ Prefix.lock ∉ i.prefixes ∧ s.platform.cpuidXsave = true ∧ s.osxsave = true := by
  unfold udFault
  cases h1 : i.prefixes.contains .lock <;> cases s.osxsave <;> cases s.platform.cpuidXsave <;>
    simp_all

/-- No #NM. -/
theorem nmFault_eq_none_iff {s : State} : nmFault s = none ↔ s.ts = false := by
  unfold nmFault
  split <;> simp_all

/-- An aligned operand. -/
theorem alignmentFault_eq_none_iff {s : State} {op : Operand} :
    alignmentFault s op = none ↔ (areaBase s op).toNat % 64 = 0 := by
  unfold alignmentFault
  split <;> simp_all

/-- The header has been read: neither an address fault nor a page fault in its 64 bytes. -/
theorem header_readable_iff {s : State} {op : Operand} :
    addressFault s op headerImage = none ∧ pageFault s op headerImage = none ↔
      ∀ o, 512 ≤ o → o < 576 → Readable s op o := by
  rw [addressFault_eq_none_iff, pageFault_eq_none_iff]
  simp only [headerImage, headerOffset, mem_span, and_imp, bytePageFault_eq_none_iff]
  exact ⟨fun h o h1 h2 => ⟨h.1 o h1 h2, h.2 o h1 h2⟩,
    fun h => ⟨fun o h1 h2 => (h o h1 h2).1, fun o h1 h2 => (h o h1 h2).2⟩⟩

/-- Header bytes 23:16 are the first of the reserved ones. -/
theorem readHeader_reserved_take (s : State) (op : Operand) :
    (readHeader s op).reserved.take 8 = areaBytes s op 528 8 := by
  simp only [readHeader, areaBytes, headerOffset, ← List.map_take, List.take_range]
  rfl

/-- A standard-form header that is accepted. -/
theorem standardIllegal_eq_false_iff {s : State} {op : Operand} :
    standardIllegal s (readHeader s op) = false ↔ StandardHeaderOk s op (readHeader s op) := by
  unfold standardIllegal StandardHeaderOk
  rw [← and_not_eq_zero_iff, readHeader_reserved_take]
  simp only [Bool.or_eq_false_iff, bne_eq_false_iff_eq, areaBytes_all_zero_iff]
  have hx : (readHeader s op).xcompBv = 0 ↔ ∀ x, 520 ≤ x → x < 528 → areaByte s op x = 0 := areaRead_eq_zero_iff
  rw [hx]
  constructor
  · rintro ⟨⟨h1, h2⟩, h3⟩
    refine ⟨h1, fun o ho ho' => ?_⟩
    by_cases h : o < 528
    · exact h2 o ho h
    · exact h3 o (by omega) (by omega)
  · rintro ⟨h1, h2⟩
    exact ⟨⟨h1, fun x hx hx' => h2 x hx (by omega)⟩, fun x hx hx' => h2 x (by omega) (by omega)⟩

/-- FORMAT bit by bit. -/
theorem Header.format_getLsbD (h : Header) (b : Nat) :
    h.format.getLsbD b = (decide (b < 63) && h.xcompBv.getLsbD b) := by
  unfold Header.format
  rw [BitVec.getLsbD_and]
  by_cases hb : b < 64
  · have : ∀ b, b < 64 → (0x7FFFFFFFFFFFFFFF : Word64).getLsbD b = decide (b < 63) := by decide
    rw [this b hb, Bool.and_comm]
  · simp [BitVec.getLsbD_of_ge _ b (by omega : 64 ≤ b)]

/-- FORMAT has no bit that XCR0 lacks. -/
theorem format_legal_iff (s : State) (h : Header) :
    h.format &&& ~~~s.xcr0 = 0 ↔ ∀ b, b < 63 → h.xcompBv.getLsbD b = true → s.xcr0.getLsbD b = true := by
  rw [and_not_eq_zero_iff]
  constructor
  · intro hh b hb hx
    exact hh b (by omega) (by simp [Header.format_getLsbD, hb, hx])
  · intro hh b hb hx
    rw [Header.format_getLsbD] at hx
    simp at hx
    exact hh b hx.1 hx.2

/-- A compacted-form header that is accepted. -/
theorem compactedIllegal_eq_false_iff {s : State} {op : Operand} :
    compactedIllegal s (readHeader s op) = false ↔ CompactedHeaderOk s op (readHeader s op) := by
  unfold compactedIllegal CompactedHeaderOk
  rw [← and_not_eq_zero_iff, ← format_legal_iff]
  simp only [Bool.or_eq_false_iff, bne_eq_false_iff_eq]
  have : (readHeader s op).reserved.any (· != 0) = false ↔ ∀ o, 528 ≤ o → o < 576 → areaByte s op o = 0 :=
    areaBytes_all_zero_iff
  rw [this]
  simp [and_assoc]

/-- The header's content is accepted. -/
theorem headerFault_eq_none_iff {s : State} {op : Operand} : headerFault s (readHeader s op) = none ↔
    ((readHeader s op).xcompBv.getLsbD 63 = false → StandardHeaderOk s op (readHeader s op)) ∧
    ((readHeader s op).xcompBv.getLsbD 63 = true → CompactedHeaderOk s op (readHeader s op)) := by
  unfold headerFault
  cases h : (readHeader s op).xcompBv.getLsbD 63
  · simp only [Header.compacted, h, ← standardIllegal_eq_false_iff]
    cases standardIllegal s (readHeader s op) <;> simp
  · simp only [Header.compacted, h, ← compactedIllegal_eq_false_iff]
    cases compactedIllegal s (readHeader s op) <;> simp

/-- A legal MXCSR value, bit by bit. -/
theorem mxcsrLegal_iff {p : Platform} {v : Word32} :
    mxcsrLegal p v = true ↔ ∀ b, b < 32 → v.getLsbD b = true → p.mxcsrMask.getLsbD b = true := by
  simp [mxcsrLegal, ← and_not_eq_zero_iff]

/-- No fault for the MXCSR image. -/
theorem mxcsrFault_eq_none_iff {s : State} {op : Operand} {h : Header} :
    mxcsrFault s op h = none ↔ (h.loadsMxcsr s.rfbm = true →
      ∀ b, b < 32 → (loadMxcsr s op).getLsbD b = true → s.platform.mxcsrMask.getLsbD b = true) := by
  rw [← mxcsrLegal_iff]
  unfold mxcsrFault
  cases h.loadsMxcsr s.rfbm <;> cases mxcsrLegal s.platform (loadMxcsr s op) <;> simp

/-- No fault in reading the images. -/
theorem imageFaults_none_iff {s : State} {op : Operand} {h : Header} : (∀ x ∈ imageFaults s op h, x = none) ↔
    ∀ image ∈ imagesToRead s h, ∀ o ∈ image, Readable s op o := by
  unfold imageFaults
  simp only [List.mem_flatMap, forall_exists_index, and_imp]
  constructor
  · intro hh image him o ho
    have h1 := hh _ image him (by simp : addressFault s op image ∈ _)
    have h2 := hh _ image him (by simp : pageFault s op image ∈ _)
    rw [addressFault_eq_none_iff] at h1
    rw [pageFault_eq_none_iff] at h2
    exact ⟨h1 o ho, bytePageFault_eq_none_iff.mp (h2 o ho)⟩
  · intro hh x image him hx
    simp at hx
    rcases hx with rfl | rfl
    · rw [addressFault_eq_none_iff]
      exact fun o ho => (hh image him o ho).1
    · rw [pageFault_eq_none_iff]
      exact fun o ho => bytePageFault_eq_none_iff.mpr (hh image him o ho).2

/-- An offset is in some ranges' image exactly when one of them has it. -/
theorem mem_spans {ranges : List ByteRange} {o : Nat} : o ∈ spans ranges ↔ ∃ r ∈ ranges, InRange r o := by
  simp [spans, mem_span, InRange]

/-- The offsets of a named image. -/
def ImageName.offsets (s : State) (h : Header) : ImageName → List Nat
  | .x87 => x87Image s
  | .mxcsr => mxcsrImage s
  | .xmm => xmmImage s
  | .component i => componentImage s h i

/-- The bytes of a named image. -/
theorem ImageName.mem_offsets {s : State} {h : Header} {image : ImageName} {o : Nat} :
    o ∈ image.offsets s h ↔ image.Has s h o := by
  cases image with
  | x87 => exact mem_spans
  | mxcsr => simp [offsets, mxcsrImage, mem_spans, Has]
  | xmm =>
    simp only [offsets, xmmImage, mem_spans, Has, List.mem_take_iff_getElem, Vector.length_toList, Vector.getElem_toList]
    constructor
    · rintro ⟨r, ⟨j, hj, rfl⟩, ho⟩
      exact ⟨⟨j, by omega⟩, by simpa using (by omega : j < s.nxmm), ho⟩
    · rintro ⟨j, hj, ho⟩
      exact ⟨_, ⟨j.val, by have := j.isLt; omega, rfl⟩, ho⟩
  | component i => exact mem_span

/-- The images read are the named ones that the header asks for. -/
theorem mem_imagesToRead {s : State} {h : Header} {im : List Nat} :
    im ∈ imagesToRead s h ↔ ∃ image : ImageName, image.IsRead s h ∧ im = image.offsets s h := by
  simp only [imagesToRead, List.mem_append, List.mem_ite_nil_right, List.mem_map, List.mem_filter, List.mem_singleton,
    List.mem_range'_1]
  constructor
  · rintro (((⟨h1, rfl⟩ | ⟨h1, rfl⟩) | ⟨h1, rfl⟩) | ⟨i, ⟨h1, h2⟩, rfl⟩)
    · exact ⟨.x87, h1, rfl⟩
    · exact ⟨.mxcsr, h1, rfl⟩
    · exact ⟨.xmm, h1, rfl⟩
    · exact ⟨.component i, ⟨by omega, by omega, h2⟩, rfl⟩
  · rintro ⟨image, h1, rfl⟩
    cases image with
    | x87 => exact .inl (.inl (.inl ⟨h1, rfl⟩))
    | mxcsr => exact .inl (.inl (.inr ⟨h1, rfl⟩))
    | xmm => exact .inl (.inr ⟨h1, rfl⟩)
    | component i => exact .inr ⟨i, ⟨⟨h1.1, by have := h1.2.1; omega⟩, h1.2.2⟩, rfl⟩

/-- The header and the images together are the footprint. -/
theorem mem_images_iff {s : State} {h : Header} {o : Nat} :
    (o ∈ headerImage ∨ ∃ image ∈ imagesToRead s h, o ∈ image) ↔ InFootprint s h o := by
  refine or_congr (by simp [headerImage, headerOffset, mem_span]) ?_
  constructor
  · rintro ⟨im, him, ho⟩
    obtain ⟨image, h1, rfl⟩ := mem_imagesToRead.mp him
    exact ⟨image, h1, ImageName.mem_offsets.mp ho⟩
  · rintro ⟨image, h1, ho⟩
    exact ⟨_, mem_imagesToRead.mpr ⟨image, h1, rfl⟩, ImageName.mem_offsets.mpr ho⟩

/-- An image is read after the images of lower rank alone: in the list of R140 step 7, whatever stands before it is a
named image that is read and has a lower rank. -/
theorem imagesToRead_split {s : State} {h : Header} {image : ImageName} (hr : image.IsRead s h) :
    ∃ pre post, imagesToRead s h = pre ++ image.offsets s h :: post ∧
      ∀ im ∈ pre, ∃ before : ImageName, before.IsRead s h ∧ before.rank < image.rank ∧ im = before.offsets s h := by
  unfold imagesToRead
  cases image with
  | x87 => exact ⟨[], _, by rw [if_pos (show (h.toBeRestored s.rfbm).getLsbD 0 = true from hr)]; rfl, by simp⟩
  | mxcsr =>
    refine ⟨_, _, by rw [if_pos (show h.loadsMxcsr s.rfbm = true from hr), List.append_assoc, List.append_assoc]; rfl, ?_⟩
    intro im him
    simp only [List.mem_ite_nil_right, List.mem_singleton] at him
    exact ⟨.x87, him.1, by decide, him.2⟩
  | xmm =>
    refine ⟨_, _, by rw [if_pos (show (h.toBeRestored s.rfbm).getLsbD 1 = true from hr), List.append_assoc]; rfl, ?_⟩
    intro im him
    simp only [List.mem_append, List.mem_ite_nil_right, List.mem_singleton] at him
    rcases him with him | him
    · exact ⟨.x87, him.1, by decide, him.2⟩
    · exact ⟨.mxcsr, him.1, by decide, him.2⟩
  | component i =>
    obtain ⟨h2, h62, hi⟩ := hr
    have hrange : List.range' 2 61 = List.range' 2 (i - 2) ++ i :: List.range' (i + 1) (62 - i) := by
      rw [show i :: List.range' (i + 1) (62 - i) = List.range' i (63 - i) by
        rw [show 63 - i = 62 - i + 1 by omega, List.range'_succ]]
      have := List.range'_append (s := 2) (m := i - 2) (n := 63 - i) (step := 1)
      rw [show 2 + 1 * (i - 2) = i by omega, show i - 2 + (63 - i) = 61 by omega] at this
      exact this.symm
    rw [hrange, List.filter_append, List.filter_cons_of_pos (by simpa using hi), List.map_append, List.map_cons,
      ← List.append_assoc]
    refine ⟨_, _, rfl, ?_⟩
    intro im him
    simp only [List.mem_append, List.mem_ite_nil_right, List.mem_singleton, List.mem_map, List.mem_filter,
      List.mem_range'_1] at him
    rcases him with ((him | him) | him) | ⟨j, ⟨hj, hb⟩, rfl⟩
    · exact ⟨.x87, him.1, by simp [ImageName.rank], him.2⟩
    · exact ⟨.mxcsr, him.1, by simp [ImageName.rank], him.2⟩
    · exact ⟨.xmm, him.1, by simp [ImageName.rank], him.2⟩
    · exact ⟨.component j, ⟨by omega, by omega, hb⟩, by simp only [ImageName.rank]; omega, rfl⟩

/-! ## Bytes out of reach -/

/-- A byte may be addressed exactly when it is not out of reach. -/
theorem byteAddressable_eq_false_iff {s : State} {i : Instr} {o : Nat} :
    byteAddressable s (operandOf s i) o = false ↔ OutOfReach s i o := by
  unfold byteAddressable OutOfReach
  have hl : ∀ g : Segment, g.inLimit ((operandOf s i).ea.toNat + o) = false ↔
      (operandOf s i).ea.toNat + o < g.floor.toNat ∨ g.limit.toNat < (operandOf s i).ea.toNat + o := by
    intro g
    rw [Segment.inLimit, Bool.and_eq_false_iff, decide_eq_false_iff_not, decide_eq_false_iff_not, Nat.not_le, Nat.not_le]
  cases s.mode with
  | real => exact decide_eq_false_iff_not.trans Nat.not_le
  | long64 => exact Iff.rfl
  | prot => exact hl _
  | v86 => exact hl _
  | compat => exact hl _

/-- The operand's address exception, as the mode's list writes it. -/
theorem addressException_operandOf (s : State) (i : Instr) : addressException s (operandOf s i) = modeReach s i := by
  unfold addressException modeReach operandOf
  cases s.mode <;> cases segmentOf i <;> simp

/-! ## Fields of the legacy region -/

/-- A field of the legacy region bit by bit, where its range reaches. -/
theorem legacyField_getLsbD {s : State} {op : Operand} {r : ByteRange} {w b : Nat} (hw : b < w) (h : b < 8 * r.length) :
    (legacyField s op r w).getLsbD b = (areaByte s op (r.offset + b / 8)).getLsbD (b % 8) := by
  simp [legacyField, hw, areaRead_getLsbD h]

/-- The image of XMMj is the field of its range. -/
theorem loadXmm_eq (s : State) (op : Operand) (j : Fin 16) :
    loadXmm s op j.val = legacyField s op s.platform.layout.xmm[j] 128 := by
  unfold loadXmm
  rw [Vector.getElem?_eq_getElem j.isLt]
  rfl

/-- Two states whose bytes agree on a range have the same field there. -/
theorem legacyField_congr {s t : State} {op : Operand} {r : ByteRange} {w : Nat}
    (h : ∀ o, InRange r o → areaByte t op o = areaByte s op o) : legacyField t op r w = legacyField s op r w := by
  have : areaBytes t op r.offset r.length = areaBytes s op r.offset r.length :=
    List.map_congr_left (fun k hk => h _ ⟨by omega, by simp at hk; omega⟩)
  unfold legacyField areaRead
  rw [this]

/-! ## Runs -/

/-- At the end address a run takes no step. -/
theorem runUntil_stop {stop : Word64} {n : Nat} {s : State} (h : s.pc = stop) : runUntil stop n s = .finished s := by
  cases n <;> simp [runUntil, h]

/-- Elsewhere a run with steps left takes one, and goes on or ends with it. -/
theorem runUntil_succ {stop : Word64} {n : Nat} {s : State} (h : s.pc ≠ stop) :
    runUntil stop (n + 1) s = match step s with
      | .next t => runUntil stop n t
      | .fault f => .fault f s
      | .refused r => .refused r s := if_neg h

end Sys2Proof.Machine
end

