-- ==== Sys2Proof/Laws/Memory.lean ====
section
/-! SUPPORT. What the operations on memory can do: a read after a write, and that every write keeps the canonical
form. -/

namespace Sys2Proof.Machine

/-- Below every listed address, memory reads as its default. -/
theorem Memory.read_of_lt {m : Memory} : ∀ {lo a : Nat}, Memory.wfFrom lo m = true → a < lo →
    m.read a = Memory.default := by
  induction m with
  | nil => intros; rfl
  | cons c m ih =>
    obtain ⟨b, w⟩ := c
    intro lo a hwf hlt
    simp only [Memory.wfFrom, Bool.and_eq_true, decide_eq_true_eq] at hwf
    have hne : b ≠ a := by omega
    simp only [Memory.read, hne, if_false]
    exact ih hwf.2 (by omega)

/-- A canonical memory is canonical from any lower address. -/
theorem Memory.wfFrom_mono {m : Memory} : ∀ {lo lo' : Nat}, lo' ≤ lo → Memory.wfFrom lo m = true →
    Memory.wfFrom lo' m = true := by
  cases m with
  | nil => intros; rfl
  | cons c m =>
    obtain ⟨b, w⟩ := c
    intro lo lo' hle hwf
    simp only [Memory.wfFrom, Bool.and_eq_true, decide_eq_true_eq] at hwf ⊢
    exact ⟨⟨by omega, hwf.1.2⟩, hwf.2⟩

/-- A cell put before a canonical memory that starts above it. -/
theorem Memory.consCell_wfFrom {m : Memory} {lo a : Nat} (v : Byte) (hle : lo ≤ a)
    (hwf : Memory.wfFrom (a + 1) m = true) : Memory.wfFrom lo (Memory.consCell a v m) = true := by
  unfold Memory.consCell
  split
  · exact Memory.wfFrom_mono (by omega) hwf
  · rename_i hv
    simp [Memory.wfFrom, hle, hv, hwf]

/-- A write keeps the canonical form (from any start at most the address written). -/
theorem Memory.write_wfFrom {m : Memory} {a : Nat} (v : Byte) : ∀ {lo : Nat}, lo ≤ a → Memory.wfFrom lo m = true →
    Memory.wfFrom lo (m.write a v) = true := by
  induction m with
  | nil => intro lo hle _; exact Memory.consCell_wfFrom v hle rfl
  | cons c m ih =>
    obtain ⟨b, w⟩ := c
    intro lo hle hwf
    have hwf' := hwf
    simp only [Memory.wfFrom, Bool.and_eq_true, decide_eq_true_eq] at hwf
    simp only [Memory.write]
    split
    · refine Memory.consCell_wfFrom v hle ?_
      simp only [Memory.wfFrom, Bool.and_eq_true, decide_eq_true_eq]
      exact ⟨⟨by omega, hwf.1.2⟩, hwf.2⟩
    · split
      · rename_i hab
        subst hab
        exact Memory.consCell_wfFrom v hle hwf.2
      · simp only [Memory.wfFrom, Bool.and_eq_true, decide_eq_true_eq]
        exact ⟨hwf.1, ih (by omega) hwf.2⟩

/-- A write keeps the canonical form. -/
theorem Memory.write_wf {m : Memory} (a : Nat) (v : Byte) (hwf : m.wf = true) : (m.write a v).wf = true :=
  Memory.write_wfFrom v (Nat.zero_le a) hwf

/-- Writing bytes keeps the canonical form. -/
theorem Memory.writeBytes_wf {m : Memory} (a : Nat) (bs : List Byte) (hwf : m.wf = true) :
    (m.writeBytes a bs).wf = true := by
  induction bs generalizing m a with
  | nil => exact hwf
  | cons b bs ih => exact ih (a + 1) (Memory.write_wf a b hwf)

/-- Placing code keeps the canonical form. -/
theorem storeCode_wf (s : State) {m : Memory} (k : Nat) (bs : List Byte) (hwf : m.wf = true) :
    (storeCode s m k bs).wf = true := by
  induction bs generalizing m k with
  | nil => exact hwf
  | cons b bs ih => exact ih (k + 1) (Memory.write_wf _ b hwf)

/-- Reading through a cell put before a memory. -/
theorem Memory.read_consCell_other {m : Memory} {a c : Nat} (v : Byte) (hne : a ≠ c) :
    (Memory.consCell a v m).read c = m.read c := by
  unfold Memory.consCell
  split
  · rfl
  · simp [Memory.read, hne]

/-- A write leaves every other address as it was. -/
theorem Memory.read_write_other {m : Memory} {a c : Nat} (v : Byte) (hne : a ≠ c) :
    (m.write a v).read c = m.read c := by
  induction m with
  | nil => exact Memory.read_consCell_other v hne
  | cons d m ih =>
    obtain ⟨b, w⟩ := d
    simp only [Memory.write]
    split
    · exact Memory.read_consCell_other v hne
    · split
      · rename_i hab
        subst hab
        rw [Memory.read_consCell_other v hne]
        simp [Memory.read, hne]
      · simp only [Memory.read, ih]

/-- A read after a write to the same address gives the byte written. -/
theorem Memory.read_write_same {m : Memory} (a : Nat) (v : Byte) : ∀ {lo : Nat}, Memory.wfFrom lo m = true →
    (m.write a v).read a = v := by
  induction m with
  | nil =>
    intro lo _
    simp only [Memory.write, Memory.consCell]
    split
    · rename_i hv; exact hv.symm
    · simp [Memory.read]
  | cons d m ih =>
    obtain ⟨b, w⟩ := d
    intro lo hwf
    simp only [Memory.wfFrom, Bool.and_eq_true, decide_eq_true_eq] at hwf
    simp only [Memory.write, Memory.consCell]
    split
    · split
      · rename_i hlt hv
        have hne : b ≠ a := by omega
        simp only [Memory.read, hne, if_false, hv]
        exact Memory.read_of_lt hwf.2 (by omega)
      · simp [Memory.read]
    · split
      · rename_i hab
        subst hab
        split
        · rename_i hv
          rw [hv]
          exact Memory.read_of_lt hwf.2 (by omega)
        · simp [Memory.read]
      · rename_i hne
        have hne' : b ≠ a := fun h => hne h.symm
        simp only [Memory.read, hne', if_false]
        exact ih hwf.2

end Sys2Proof.Machine
end

