-- ==== Sys2Proof/Laws/PerInstr.lean ====
section
/-! SUPPORT. Families of statements made per instruction. -/

namespace Sys2Proof.Laws

/-- The encoder writes exactly as many bytes as the instruction's length says (R72). -/
def EncodeLength.Statement (i : Instr) : Prop := (encode i).length = i.length

theorem EncodeLength.xrstor (ps : List Prefix) (rex : Option RexBits) (m : MemOperand) :
    EncodeLength.Statement (.xrstor ps rex m) := by
  cases rex <;> simp [EncodeLength.Statement, encode, Instr.length, Instr.prefixes, Instr.rex, Instr.mem] <;> omega

theorem EncodeLength.xrstor64 (ps : List Prefix) (q : RexBits) (m : MemOperand) :
    EncodeLength.Statement (.xrstor64 ps q m) := by
  simp [EncodeLength.Statement, encode, Instr.length, Instr.prefixes, Instr.rex, Instr.mem]
  omega

end Sys2Proof.Laws
end

