-- ==== Sys2Proof/Tests/Slice0.lean ====
section
/-! SUPPORT. Tests with expected results from spec/95_test_vectors.md, the smoke test of WellFormed, decoded words written
from the encoding rules, and for each statement with hypotheses a witness that meets them. -/

namespace Sys2Proof.Tests

open Sys2Proof.Machine

set_option maxRecDepth 100000
-- one declaration at a time: many kernel evaluations at once ask for too much memory
set_option Elab.async false

/-! ## WellFormed: one ill-formed term for each check -/

/-- An ignored REX byte outside 64-bit mode (R64). -/
theorem test_wf_ignored_rex_outside_long :
    Instr.wf .code32 (.xrstor [.ignoredRex 8, .lock] none (.base 3 .none)) = false := by decide

/-- An ignored REX byte that nothing follows: it would be the one in force (R60). -/
theorem test_wf_ignored_rex_last : Instr.wf .code64 (.xrstor [.ignoredRex 8] none (.base 3 .none)) = false := by decide

/-- XRSTOR64 outside 64-bit mode (R65). -/
theorem test_wf_xrstor64_outside_long :
    Instr.wf .code32 (.xrstor64 [] ⟨false, false, false⟩ (.base 3 .none)) = false := by decide

/-- 16-bit addressing in 64-bit mode (R70). -/
theorem test_wf_sixteen_bit_form_in_long : Instr.wf .code64 (.xrstor [] none (.regs16 .bx .none)) = false := by decide

/-- 32-bit addressing in 16-bit code without prefix 67H (R70). -/
theorem test_wf_base_form_in_code16 : Instr.wf .code16 (.xrstor [] none (.base 3 .none)) = false := by decide

/-- BP alone has no encoding without a displacement (R68). -/
theorem test_wf_bp_alone : Instr.wf .code16 (.xrstor [] none (.regs16 .bp .none)) = false := by decide

/-- Base 101 has no encoding without a displacement (R67). -/
theorem test_wf_base_five_alone : Instr.wf .code64 (.xrstor [] none (.base 5 .none)) = false := by decide

/-- Base 100 means a SIB byte (R67). -/
theorem test_wf_base_four : Instr.wf .code64 (.xrstor [] none (.base 4 .none)) = false := by decide

/-- A 16-bit displacement with 64-bit addressing (R67). -/
theorem test_wf_disp16_in_long : Instr.wf .code64 (.xrstor [] none (.base 3 (.disp16 0))) = false := by decide

/-- A 32-bit displacement with 16-bit addressing (R68). -/
theorem test_wf_disp32_in_code16 : Instr.wf .code16 (.xrstor [] none (.regs16 .bx (.disp32 0))) = false := by decide

/-- SIB base 101 has no encoding without a displacement (R69). -/
theorem test_wf_sib_base_five : Instr.wf .code64 (.xrstor [] none (.sib 0 4 5 .none)) = false := by decide

/-- Sixteen bytes are too long (R72). -/
theorem test_wf_length :
    Instr.wf .code64 (.xrstor (List.replicate 13 (.segment .ds)) none (.base 3 .none)) = false := by decide

/-! ## Words written out from the encoding rules (95_test_vectors.md section 6) -/

/-- EN1: `0F AE 2B`: ModRM 00 101 011 is /5 with base RBX. -/
theorem test_decode_en1 : decode .code64 [0x0F, 0xAE, 0x2B] = .ok (.xrstor [] none (.base 3 .none), []) := by decide

/-- EN4: ModRM 01 101 011 and disp8 C0H. -/
theorem test_decode_en4 :
    decode .code64 [0x0F, 0xAE, 0x6B, 0xC0] = .ok (.xrstor [] none (.base 3 (.disp8 0xC0)), []) := by decide

/-- EN5: ModRM 10 101 011 and disp32 400H, least significant byte first. -/
theorem test_decode_en5 : decode .code64 [0x0F, 0xAE, 0xAB, 0x00, 0x04, 0x00, 0x00] =
    .ok (.xrstor [] none (.base 3 (.disp32 0x400)), []) := by decide

/-- EN6: ModRM 00 101 100, SIB 00 100 100: no index, base RSP. -/
theorem test_decode_en6 :
    decode .code64 [0x0F, 0xAE, 0x2C, 0x24] = .ok (.xrstor [] none (.sib 0 4 4 .none), []) := by decide

/-- EN9: ModRM 00 101 101: disp32 alone. -/
theorem test_decode_en9 : decode .code64 [0x0F, 0xAE, 0x2D, 0xF9, 0x0F, 0x00, 0x00] =
    .ok (.xrstor [] none (.direct32 0xFF9), []) := by decide

/-- EN13: `4C`: REX.W and REX.R: XRSTOR64. -/
theorem test_decode_en13 : decode .code64 [0x4C, 0x0F, 0xAE, 0x2B] =
    .ok (.xrstor64 [] ⟨true, false, false⟩ (.base 3 .none), []) := by decide

/-- EN15: SIB 10 001 011 and disp8. -/
theorem test_decode_en15 : decode .code64 [0x0F, 0xAE, 0x6C, 0x8B, 0x40] =
    .ok (.xrstor [] none (.sib 2 1 3 (.disp8 0x40)), []) := by decide

/-- EN17: SIB 25H with mod 00: disp32 and no base. -/
theorem test_decode_en17 : decode .code64 [0x0F, 0xAE, 0x2C, 0x25, 0x00, 0x20, 0x00, 0x00] =
    .ok (.xrstor [] none (.sibNoBase 0 4 0x2000), []) := by decide

/-- EN20: a REX byte that FS's prefix follows is ignored. -/
theorem test_decode_en20 : decode .code64 [0x48, 0x64, 0x0F, 0xAE, 0x2B] =
    .ok (.xrstor [.ignoredRex 8, .segment .fs] none (.base 3 .none), []) := by decide

/-- EN23 and EN24: 16-bit addressing, BX and a 16-bit offset. -/
theorem test_decode_en23_en24 : decode .code16 [0x0F, 0xAE, 0x2F] = .ok (.xrstor [] none (.regs16 .bx .none), []) ∧
    decode .code16 [0x0F, 0xAE, 0x2E, 0x00, 0x20] = .ok (.xrstor [] none (.direct16 0x2000), []) := by decide

/-- EN28 to EN31: the neighbours are refused. -/
theorem test_decode_refused : decode .code64 [0x0F, 0xAE, 0xE8] = .error (.registerForm 0) ∧
    decode .code64 [0x66, 0x0F, 0xAE, 0x2B] = .error (.mandatoryPrefix 0x66) ∧
    decode .code64 [0x0F, 0xAE, 0x23] = .error (.otherGroup 4) ∧
    decode .code32 [0x48, 0x0F, 0xAE, 0x2B] = .error (.otherOpcode 0x48) := by decide

/-- The rows of the opcode table: the word alone is XRSTOR; with a REX.W byte in bits 31:24 it is XRSTOR64. -/
theorem test_table_words : decodeTableWord 24 0x0FAE28 = some (.xrstor [] none (.base 0 .none)) ∧
    decodeTableWord 32 0x480FAE28 = some (.xrstor64 [] ⟨false, false, false⟩ (.base 0 .none)) := by decide

/-! ## States -/

/-- General registers set to values. -/
def setRegs (s : State) (l : List (Nat × Word64)) : State :=
  { s with gpr := l.foldl (fun g p => g.setIfInBounds p.1 p.2) s.gpr }

/-- Bytes put into memory. -/
def poke (s : State) (a : Nat) (bs : List Byte) : State := { s with mem := Memory.writeBytes s.mem a bs }

/-- Platform TP1 of 95_test_vectors.md section 2, RBX = 2000H, pc = 1000H, RAX the mask. -/
def tp1 (mask : Word64) : State :=
  setRegs { State.reset with mode := .long64, pc := 0x1000, cr4 := 0x40000, xcr0 := 7 } [(0, mask), (3, 0x2000)]

/-- TP1 with a header and an MXCSR image at 2000H. -/
def area (mask : Word64) (xstateBv xcompBv : Nat) (mxcsr : Nat) : State :=
  poke (poke (poke (tp1 mask) 0x2018 (leBytes 4 mxcsr)) 0x2200 (leBytes 8 xstateBv)) 0x2208 (leBytes 8 xcompBv)

/-- `xrstor [rbx]`. -/
abbrev x : Instr := .xrstor [] none (.base 3 .none)

/-- `xrstor64 [rbx]`. -/
abbrev x64 : Instr := .xrstor64 [] ⟨false, false, false⟩ (.base 3 .none)

/-- The start state of program P1 (95_test_vectors.md section 7), the bytes of `xrstor [rbx]` at pc. -/
def p1 : State :=
  let s := setRegs (area 0 3 0 0x5F80) [(0, 0xFFFFFFFF00000007), (2, 0x1234567800000000)]
  let s := poke s 0x1000 [0x0F, 0xAE, 0x2B]
  let s := poke s 0x2000 [0x7F, 0x03, 0x00, 0x00, 0x01]
  let s := poke s 0x2020 [0, 0, 0, 0, 0, 0, 0, 0x80, 0xFF, 0x3F]
  poke s 0x20A0 [0, 1, 2, 3, 4, 5, 6, 7, 8, 9, 10, 11, 12, 13, 14, 15]

/-- Vector S4: nothing requested. -/
def s4 : State := area 0 7 0 0x1F80

/-- Vector CP1: compacted, x87 and component 2 loaded, component 1 initialized. -/
def cp1 : State := area 7 5 0x8000000000000007 0x1F80

/-- Vector CP3: compacted, only component 2 requested. -/
def cp3 : State := area 4 7 0x8000000000000007 0x1F80

/-- Vector F16: a reserved bit of MXCSR in a standard-form image that is loaded. -/
def f16 : State := area 2 2 0 0x10000

/-- A state of program P5: real-address mode, DS selector 100H, BX as given. -/
def real (bx : Word64) : State :=
  let s := setRegs
    { State.reset with
      pc := 0x7C00, cr4 := 0x40000, xcr0 := 3
      segs := { State.reset.segs with
        cs := resetSegment
        ds := { selector := 0x100, base := 0, floor := 0, limit := 0xFFFF } } }
    [(0, 1), (3, bx)]
  let s := poke s 0x7C00 [0x0F, 0xAE, 0x2F]
  poke (poke s 0x2000 [0x7F, 0x03]) 0x2200 [1]

/-- `xrstor [bx]`. -/
abbrev xbx : Instr := .xrstor [] none (.regs16 .bx .none)

/-- 32-bit protected mode with one segment in DS and SS, EBX and EBP at 2000H, a standard-form header there. -/
def prot (floor limit : Word32) : State :=
  let seg : Segment := { selector := 8, base := 0, floor := floor, limit := limit }
  setRegs { area 0 3 0 0x1F80 with
    mode := .prot, code32 := true
    segs := { es := seg, cs := seg, ss := seg, ds := seg, fs := seg, gs := seg } } [(5, 0x2000)]

/-- `xrstor [ebp]` or `xrstor [rbp]` with disp8 0: through SS. -/
abbrev xbp : Instr := .xrstor [] none (.base 5 (.disp8 0))

/-- TP1 with a page fault on the header's page (vector F28). -/
def f28 : State :=
  { p1 with translations :=
      [{ first := 0x2200, last := 0x223F, access := { kind := .read, cpl := 0 }, result := .pageFault 0 }] }

/-- The state after a step, if the outcome is one. -/
def after (o : Host.Outcome State Fault Refusal) : Option State :=
  match o with
  | .next t => some t
  | _ => none

/-- The fault, if the outcome is one. -/
def faultOf (o : Host.Outcome State Fault Refusal) : Option Fault :=
  match o with
  | .fault f => some f
  | _ => none

theorem next_of_after {o : Host.Outcome State Fault Refusal} (h : (after o).isSome = true) : ∃ t, o = .next t := by
  cases o with
  | next t => exact ⟨t, rfl⟩
  | fault f => simp [after] at h
  | refused r => simp [after] at h

theorem fault_of_faultOf {o : Host.Outcome State Fault Refusal} {f : Fault} (h : faultOf o = some f) : o = .fault f := by
  cases o with
  | next t => simp [faultOf] at h
  | fault g => simpa [faultOf] using h
  | refused r => simp [faultOf] at h

/-! ## One step on a small state -/

/-- P1: XRSTOR, standard form; the end state as 95_test_vectors.md section 7 gives it. -/
theorem test_p1 : (after (step p1)).map
    (fun t => (t.pc, t.x87.fcw, t.x87.ftw, t.mxcsr, t.xmm[0], t.xinuse, t.xmodifiedBv, t.xrstorInfo.laxa)) =
    some (0x1003, 0x037F, 0xFFFC, 0x5F80, 0x0F0E0D0C0B0A09080706050403020100, 3, 0xFFFFFFFFFFFFFFF8, 0x2000) := by
  decide +kernel

/-- CP2: XRSTOR64, compacted form: component 2 from base + 576, the rest initialized. -/
theorem test_cp2 : (after (exec x64 (poke (area 7 4 0x8000000000000004 0) 0x2240 [0xAA, 0xBB]))).map
    (fun t => (t.mxcsr, t.x87.fcw, (t.comp 2).take 3, t.xinuse, t.xrstorInfo.compmask)) =
    some (0x1F80, 0x037F, [0xAA, 0xBB, 0], 4, 0x8000000000000004) := by decide +kernel

/-- XRSTOR64 on the area of P1 with its bytes 8 to 23 filled: 64-bit pointers, selectors zero (D8, R43). -/
theorem test_xrstor64_pointers : (after (exec x64 (poke p1 0x2008 [1, 2, 3, 4, 5, 6, 7, 8, 9]))).map
    (fun t => (t.x87.fip, t.x87.fcs, t.x87.fdp, t.pc)) = some (0x0807060504030201, 0, 9, 0x1004) := by decide +kernel

/-- XRSTOR on the same bytes under a layout that gives FIP 8 bytes: a 32-bit offset, "bits 63:32 ... become 0" (R81). -/
theorem test_xrstor_pointer_width :
    (after (step (poke { p1 with platform :=
      { p1.platform with layout := { fxsaveLayout with fip := { offset := 8, length := 8 } } } } 0x2008
      [1, 2, 3, 4, 5, 6, 7, 8, 9]))).map (fun t => t.x87.fip) = some 0x04030201 := by decide +kernel

/-- P5: XRSTOR in real-address mode. -/
theorem test_p5 : (after (step (real 0x1000))).map (fun t => (t.pc, t.x87.fcw, t.x87.ftw, t.xinuse, t.xmodifiedBv)) =
    some (0x7C03, 0x037F, 0xFFFF, 1, 0xFFFFFFFFFFFFFFFE) := by decide +kernel

/-- A table word placed at the pointer of the reset state runs: CR4.OSXSAVE is 0 there, so #UD (R121, log entry 3). -/
theorem test_withFetchWord : faultOf (step (State.reset.withFetchWord 24 0x0FAE28)) = some .ud := by decide +kernel

/-- P1 as a run of its one instruction of 3 bytes: it ends after one step, at the address past the instruction (R162). -/
theorem test_run_p1 : (match runProgram 3 5 p1 with
    | .finished t => some t.pc
    | _ => none) = some 0x1003 := by decide +kernel

/-- A run of P1 to another address goes on to the zero bytes after the program and is refused there (R162). -/
theorem test_run_past : (match runUntil 0x2000 5 p1 with
    | .refused r t => some (r, t.pc)
    | _ => none) = some (.notXrstor (.otherOpcode 0), 0x1003) := by decide +kernel

/-- R48: in real-address mode DS adds 16 times its selector, whatever its base field holds. -/
theorem test_real_base : linearAt (real 0x1000) { seg := .ds, ea := 0x1000 } 512 = 0x2200 ∧
    linearAt State.reset { seg := .cs, ea := 0xFFF0 } 0 = 0xFFFF0 := by decide +kernel

/-! ## Hypotheses met: completion -/

/-- Under the default layout each XMM image ends below the end of the legacy region. -/
theorem xmm_range_le : ∀ j : Fin 16, fxsaveLayout.xmm[j].offset + fxsaveLayout.xmm[j].length ≤ 512 := by decide

/-- Under the default layout the images of the legacy region end below its end. -/
theorem legacy_lt {s : State} {h : Header} {image : ImageName} {o : Nat} (hl : s.platform.layout = fxsaveLayout)
    (hi : image.rank < 3) (ho : image.Has s h o) : o < 512 := by
  have hx : ∀ r ∈ fxsaveLayout.x87, r.offset + r.length ≤ 512 := by decide
  cases image with
  | x87 =>
    obtain ⟨r, hr, ho⟩ := ho
    rw [hl] at hr
    exact Nat.lt_of_lt_of_le ho.2 (hx r hr)
  | mxcsr =>
    have := ho.2
    rw [hl] at this
    exact Nat.lt_of_lt_of_le this (by decide)
  | xmm =>
    obtain ⟨j, -, ho⟩ := ho
    rw [hl] at ho
    exact Nat.lt_of_lt_of_le ho.2 (xmm_range_le j)
  | component k => exact absurd hi (by simp only [ImageName.rank]; omega)

/-- Every offset of the footprint is below a bound that covers the default legacy region and each component. -/
theorem footprint_lt {s : State} {h : Header} (hl : s.platform.layout = fxsaveLayout)
    (hc : (List.range' 2 61).all (fun k => decide (componentOffset s.platform h k + (s.platform.ext k).size ≤ 832)) = true)
    {o : Nat} (ho : InFootprint s h o) : o < 832 := by
  rcases ho with ho | ⟨image, hr, ho⟩
  · omega
  · by_cases hi : image.rank < 3
    · have := legacy_lt hl hi ho
      omega
    · cases image with
      | component k =>
        have := List.all_eq_true.mp hc k (by have := hr.1; have := hr.2.1; simp [List.mem_range'_1]; omega)
        simp only [decide_eq_true_eq] at this
        exact Nat.lt_of_lt_of_le ho.2 this
      | _ => exact absurd (by decide) hi

/-- Without rows every address translates to itself. -/
theorem translate_nil {s : State} (ht : s.translations = []) (k : AccessKind) (la : Word64) :
    Machine.translate s k la = .physical la.toNat := by
  unfold Machine.translate
  rw [ht]
  cases s.mode <;> rfl

/-- Every byte of the footprint is readable where the first 832 offsets may be addressed and nothing is translated. -/
theorem footprint_readable {s : State} {op : Operand} {h : Header} (hl : s.platform.layout = fxsaveLayout)
    (ht : s.translations = [])
    (ha : (List.range 832).all (byteAddressable s op) = true)
    (hc : (List.range' 2 61).all (fun k => decide (componentOffset s.platform h k + (s.platform.ext k).size ≤ 832)) = true)
    (o : Nat) (ho : InFootprint s h o) : Readable s op o :=
  ⟨List.all_eq_true.mp ha o (List.mem_range.mpr (footprint_lt hl hc ho)), _, translate_nil ht _ _⟩

/-- The checks of R161 by evaluation. -/
theorem completes_of {s : State} {i : Instr} (hl : s.platform.layout = fxsaveLayout) (ht : s.translations = [])
    (h1 : (!i.prefixes.contains .lock && s.platform.cpuidXsave && s.osxsave && !s.ts &&
      (areaBase s (operandOf s i)).toNat % 64 == 0) = true)
    (ha : (List.range 832).all (byteAddressable s (operandOf s i)) = true)
    (hc : (List.range' 2 61).all (fun k =>
      decide (componentOffset s.platform (headerOf s i) k + (s.platform.ext k).size ≤ 832)) = true)
    (hh : headerFault s (headerOf s i) = none) (hm : mxcsrFault s (operandOf s i) (headerOf s i) = none) :
    Completes s i := by
  simp only [Bool.and_eq_true, Bool.not_eq_true', beq_iff_eq] at h1
  obtain ⟨⟨⟨⟨h1, h2⟩, h3⟩, h4⟩, h5⟩ := h1
  exact ⟨by simpa using h1, h2, h3, h4, h5, footprint_readable hl ht ha hc, (headerFault_eq_none_iff.mp hh).1,
    (headerFault_eq_none_iff.mp hh).2, mxcsrFault_eq_none_iff.mp hm⟩

theorem p1_completes : Completes p1 x :=
  completes_of rfl rfl (by decide +kernel) (by decide +kernel) (by decide +kernel) (by decide +kernel) (by decide +kernel)

theorem p1_completes64 : Completes p1 x64 :=
  completes_of rfl rfl (by decide +kernel) (by decide +kernel) (by decide +kernel) (by decide +kernel) (by decide +kernel)

theorem cp1_completes : Completes cp1 x :=
  completes_of rfl rfl (by decide +kernel) (by decide +kernel) (by decide +kernel) (by decide +kernel) (by decide +kernel)

theorem cp1_completes64 : Completes cp1 x64 :=
  completes_of rfl rfl (by decide +kernel) (by decide +kernel) (by decide +kernel) (by decide +kernel) (by decide +kernel)

theorem s4_completes : Completes s4 x :=
  completes_of rfl rfl (by decide +kernel) (by decide +kernel) (by decide +kernel) (by decide +kernel) (by decide +kernel)

theorem s4_completes64 : Completes s4 x64 :=
  completes_of rfl rfl (by decide +kernel) (by decide +kernel) (by decide +kernel) (by decide +kernel) (by decide +kernel)

theorem p1_next : ∃ t, exec x p1 = .next t := next_of_after (by decide +kernel)
theorem p1_next64 : ∃ t, exec x64 p1 = .next t := next_of_after (by decide +kernel)

/-- XrstorCompletesWithTheSourceOperation. -/
theorem witness_completes : Completes p1 (.xrstor [] none (.base 3 .none)) := p1_completes

/-- XrstorSixtyFourCompletesWithTheSourceOperation. -/
theorem witness_completes64 :
    p1.mode = .long64 ∧ Completes p1 (.xrstor64 [] ⟨false, false, false⟩ (.base 3 .none)) := ⟨rfl, p1_completes64⟩

/-- CompletionNeedsEveryRequirement and RestoringTwiceIsRestoringOnce, for both instructions. -/
theorem witness_next : (∃ t, exec x p1 = .next t) ∧ ∃ t, exec x64 p1 = .next t := ⟨p1_next, p1_next64⟩

/-- XrstorSixtyFourIsRefusedOutsideLongMode. -/
theorem witness_refused : (prot 0 0xFFFFFFFF).mode ≠ .long64 := by decide +kernel

/-- StepKeepsTheInvariant. -/
theorem witness_invariant : p1.Inv ∧ ∃ t, step p1 = .next t :=
  ⟨⟨by decide +kernel, by decide +kernel, by decide +kernel, by decide +kernel, by decide +kernel, by decide +kernel,
    by decide +kernel, by decide +kernel⟩, next_of_after (by decide +kernel)⟩

/-! ## Hypotheses met: encoding and addressing -/

/-- DecodeOfEncode: both instructions, and each code size. -/
theorem witness_wf : Instr.wf .code64 x = true ∧ Instr.wf .code32 x = true ∧ Instr.wf .code16 xbx = true ∧
    Instr.wf .code64 x64 = true := by decide

/-- EncodeOfDecode and DecodedBytesHaveTheOpcode. -/
theorem witness_decodes : decode .code64 [0x0F, 0xAE, 0x2B, 0x90] = .ok (x, [0x90]) := by decide

/-- XrstorSixtyFourDecodesOnlyInLongMode, third clause. -/
theorem witness_decodes64 : decode .code64 [0x48, 0x0F, 0xAE, 0x2B] = .ok (x64, []) := by decide

/-- NeighbouringEncodingsAreRefused: prefixes with a REX byte before another prefix and last, outside 64-bit mode none;
the ModRM bytes of XSAVE and LFENCE. -/
theorem witness_neighbours :
    [Prefix.ignoredRex 8, Prefix.segment .fs, Prefix.lock, Prefix.ignoredRex 15].all (Prefix.wf .code64) = true ∧
    [Prefix.segment .fs, Prefix.lock].all (Prefix.wf .code16) = true ∧
    (0x23 : Byte) &&& 0x38 ≠ 0x28 ∧ (0xE8 : Byte) &&& 0xF8 = 0xE8 := by decide

/-- Protected mode with seven prefixes at pc and no more fetchable: the limit of CS ends after them. -/
def cut : State :=
  let s := poke (prot 0 0xFFFFFFFF) 0x1000 (List.replicate 15 0x3E)
  { s with segs := { s.segs with cs := { s.segs.cs with limit := 0x1006 } } }

/-- P1 with fifteen prefixes at pc. -/
def long15 : State := poke p1 0x1000 (List.replicate 15 0x3E)

/-- StepRunsTheDecodedInstruction: its two clauses, the second with bytes that are another instruction, with bytes that end
at one that cannot be fetched, and with fifteen prefixes. -/
theorem witness_step : decode p1.codeSize (fetchBytes p1) = .ok (x, List.replicate 12 0) ∧
    decode State.reset.codeSize (fetchBytes State.reset) = .error (.otherOpcode 0) ∧
    (decode cut.codeSize (fetchBytes cut) = .error .truncated ∧ (fetchBytes cut).length = 7) ∧
    decode long15.codeSize (fetchBytes long15) = .error .truncated ∧ (fetchBytes long15).length = 15 := by decide +kernel

/-- EncodedBytesAtThePointerRun. -/
theorem witness_encoded : Instr.wf p1.codeSize x = true ∧ ∀ k, k < x.length → fetchByte p1 k = (encode x)[k]? := by
  decide +kernel

/-- BaseAddressing, both instructions, with 64-bit and with 32-bit addresses. -/
theorem witness_base : (x.mem = .base 3 .none ∧ x64.mem = .base 3 .none ∧ xbp.mem = .base 5 (.disp8 0)) ∧
    (Instr.wf p1.codeSize x = true ∧ addrWidth (x.addrSize p1.codeSize) = 64) ∧
    Instr.wf (prot 0 0).codeSize x = true ∧ addrWidth (x.addrSize (prot 0 0).codeSize) = 32 := by decide +kernel

/-- SibAddressing: its two clauses, well-formed in 64-bit and in 32-bit code, with no displacement and with disp8. -/
theorem witness_sib :
    (Instr.wf .code32 (.xrstor [] none (.sib 3 4 3 .none)) = true ∧
      Instr.wf .code64 (.xrstor64 [.addressSize] ⟨false, true, false⟩ (.sib 3 4 5 (.disp8 0x80))) = true) ∧
    Instr.wf .code32 (.xrstor [] none (.sibNoBase 2 1 0x80000000)) = true := by decide

/-- OffsetAloneAddressing: its three clauses, and XRSTOR64 in the first. -/
theorem witness_offset : (p1.mode = .long64 ∧ Prefix.addressSize ∉ ([] : List Prefix)) ∧
    (p1.mode = .long64 ∧ Prefix.addressSize ∈ [Prefix.addressSize]) ∧
    ((prot 0 0).mode ≠ .long64 ∧ (Instr.xrstor [] none (.direct32 0)).addrSize (prot 0 0).codeSize = .a32) ∧
    (Instr.xrstor64 [] ⟨false, false, false⟩ (.direct32 0)).mem = .direct32 0 := by
  decide +kernel

/-- SixteenBitAddressing: its two clauses, with each displacement, in 16-bit code and in 32-bit code with 67H. -/
theorem witness_sixteen : (Instr.xrstor [] none (.direct16 0)).addrSize (real 0).codeSize = .a16 ∧
    (Instr.wf .code16 (.xrstor [] none (.regs16 .bpDi .none)) = true ∧
      Instr.wf .code16 (.xrstor [] none (.regs16 .bp (.disp8 0x80))) = true) ∧
    Instr.wf .code32 (.xrstor [.addressSize] none (.regs16 .si (.disp16 0x8000))) = true ∧
    (Instr.xrstor [.addressSize] none (.regs16 .si (.disp16 0x8000))).addrSize (prot 0 0).codeSize = .a16 := by
  decide +kernel

/-- SegmentOfAnOperand: its two clauses, of both instructions. -/
theorem witness_segment :
    ((Instr.xrstor64 [.segment .fs, .segment .ss, .lock] ⟨false, false, false⟩ (.base 3 .none)).prefixes =
        [.segment .fs] ++ .segment .ss :: [.lock] ∧ ∀ r', Prefix.segment r' ∉ [Prefix.lock]) ∧
    ∀ r', Prefix.segment r' ∉ (Instr.xrstor [.addressSize] none (.regs16 .bp (.disp8 0))).prefixes := by
  refine ⟨⟨rfl, ?_⟩, ?_⟩ <;> intro r' <;> cases r' <;> decide

/-! ## Hypotheses met: the area and the masks -/

/-- CompactOffsetIsASumOfSizes. -/
theorem witness_compact_offset : (∀ k, 2 ≤ k → k ≤ 62 → (resetPlatform.ext k).align64 = false) ∧ 2 ≤ 62 := by
  decide +kernel

/-- LegacyRegionUnderTheDefaultLayout: both clauses. -/
theorem witness_layout : p1.platform.layout = fxsaveLayout := rfl

/-- CanonicalMeansTopBitsEqual, at both ends of its range. -/
theorem witness_canonical : (1 ≤ 1 ∧ 1 ≤ 64) ∧ 1 ≤ 64 ∧ 64 ≤ 64 := by decide

/-- StandardMasks, CompactedMasks. -/
theorem witness_masks : (headerOf p1 x).xcompBv.getLsbD 63 = false ∧ (headerOf cp1 x).xcompBv.getLsbD 63 = true ∧
    (headerOf cp1 x).xstateBv &&& ~~~(headerOf cp1 x).xcompBv = 0 := by decide +kernel

/-! ## Hypotheses met: what a completed XRSTOR leaves -/

/-- The statements about the standard form, for both instructions: StandardFormSetsTheX87State,
StandardFormSetsTheXmmRegisters, StandardFormSetsTheComponents, StandardFormLoadsMxcsr (first clause). -/
theorem witness_standard : (Supported p1 x ∧ Completes p1 x ∧ (headerOf p1 x).xcompBv.getLsbD 63 = false) ∧
    Supported p1 x64 ∧ Completes p1 x64 ∧ (headerOf p1 x64).xcompBv.getLsbD 63 = false :=
  ⟨⟨trivial, p1_completes, by decide +kernel⟩, rfl, p1_completes64, by decide +kernel⟩

/-- The statements about the compacted form, for both instructions: CompactedFormSetsTheX87State,
CompactedFormSetsTheSseState, CompactedFormSetsTheComponents. -/
theorem witness_compacted : (Supported cp1 x ∧ Completes cp1 x ∧ (headerOf cp1 x).xcompBv.getLsbD 63 = true ∧
      ∀ k, 2 ≤ k → k ≤ 62 → (cp1.platform.ext k).align64 = false) ∧
    Supported cp1 x64 ∧ Completes cp1 x64 ∧ (headerOf cp1 x64).xcompBv.getLsbD 63 = true :=
  ⟨⟨trivial, cp1_completes, by decide +kernel, by decide +kernel⟩, rfl, cp1_completes64, by decide +kernel⟩

/-- TrackingStateIsRecorded, InstructionPointerAdvances, XinuseSaysWhatWasLoaded: standard, compacted, both
instructions. -/
theorem witness_finish : (Supported p1 x ∧ Completes p1 x) ∧ (Supported cp1 x64 ∧ Completes cp1 x64) :=
  ⟨⟨trivial, p1_completes⟩, rfl, cp1_completes64⟩

/-- StandardFormStoresCompmaskZero. -/
theorem witness_compmask : (∃ t, exec x p1 = .next t) ∧ (headerOf p1 x).xcompBv.getLsbD 63 = false :=
  ⟨p1_next, by decide +kernel⟩

/-- EverythingElseIsUnchanged: nothing requested (S4); XMM8 to XMM15 outside 64-bit mode (P5); MXCSR with RFBM[2] alone in
the compacted form (CP3). -/
theorem witness_frame : ((∃ t, exec x s4 = .next t) ∧ s4.rfbm = 0) ∧
    ((∃ t, exec xbx (real 0x1000) = .next t) ∧ (real 0x1000).mode ≠ .long64) ∧
    ((∃ t, exec x cp3 = .next t) ∧ cp3.rfbm.getLsbD 1 = false ∧ (headerOf cp3 x).xcompBv.getLsbD 63 = true) :=
  ⟨⟨next_of_after (by decide +kernel), by decide +kernel⟩, ⟨next_of_after (by decide +kernel), by decide +kernel⟩,
    next_of_after (by decide +kernel), by decide +kernel, by decide +kernel⟩

/-- RequestingNothingChangesOnlyTracking, for both instructions. -/
theorem witness_nothing : (Supported s4 x ∧ Completes s4 x ∧ s4.rfbm = 0) ∧
    Supported s4 x64 ∧ Completes s4 x64 ∧ s4.rfbm = 0 :=
  ⟨⟨trivial, s4_completes, by decide +kernel⟩, rfl, s4_completes64, by decide +kernel⟩

/-! ## Hypotheses met: what cannot influence the result -/

/-- OnlyTheFootprintIsRead: a memory that differs at 9000H. -/
theorem witness_footprint : p1.mem.write 0x9000 1 ≠ p1.mem ∧
    ∀ o, InFootprint p1 (headerOf p1 x) o →
      areaByte { p1 with mem := p1.mem.write 0x9000 1 } (operandOf p1 x) o = areaByte p1 (operandOf p1 x) o := by
  refine ⟨by decide +kernel, fun o ho => ?_⟩
  have hlt := footprint_lt rfl (by decide +kernel) ho
  have hall : ∀ o, o < 832 →
      areaByte { p1 with mem := p1.mem.write 0x9000 1 } (operandOf p1 x) o = areaByte p1 (operandOf p1 x) o := by
    decide +kernel
  exact hall o hlt

/-- UpperHalvesOfTheMaskAreIgnored: the registers of P1 with other upper halves of RAX and RDX. -/
theorem witness_upper_halves : let g := (p1.gpr.set 0 7).set 2 0
    g ≠ p1.gpr ∧ effectiveAddress { p1 with gpr := g } x = effectiveAddress p1 x ∧
    (State.reg { p1 with gpr := g } rax).setWidth 32 = (p1.reg rax).setWidth 32 ∧
    (State.reg { p1 with gpr := g } rdx).setWidth 32 = (p1.reg rdx).setWidth 32 := by decide +kernel

/-- A row that maps the page of P1's area for data reads at a privilege level. -/
def pageRow (level : BitVec 2) : TranslationRow :=
  { first := 0x2000, last := 0x2FFF, access := { kind := .read, cpl := level }, result := .physical 0x9000 }

/-- P1 with the page of its area at another physical address, alike for the levels 0 and 3. -/
def mapped : State := { p1 with translations := [pageRow 0, pageRow 3] }

/-- Data reads with those rows at level 0 or 3: the page, or the linear address itself. -/
theorem translate_pages {s : State} (hm : s.mode = .long64) (ht : s.translations = [pageRow 0, pageRow 3])
    (hl : s.cpl = 0 ∨ s.cpl = 3) (la : Word64) :
    Machine.translate s .read la =
      if 0x2000 ≤ la.toNat ∧ la.toNat ≤ 0x2FFF then .physical (0x9000 + (la.toNat - 0x2000)) else .physical la.toNat := by
  have hne : (({ kind := .read, cpl := 0#2 } : Access) == { kind := .read, cpl := 3#2 }) = false := by decide
  unfold Machine.translate
  rw [hm, ht]
  by_cases h1 : 0x2000 ≤ la.toNat <;> by_cases h2 : la.toNat ≤ 0x2FFF <;> rcases hl with hl | hl <;>
    simp [List.find?, pageRow, TranslationRow.covers, TranslationRow.yields, h1, h2, hl, hne]

/-- PrivilegeLevelGatesNothing: a state with translation rows, and level 3 instead of 0. -/
theorem witness_privilege : mapped.acEnabled = false ∧ mapped.translations ≠ [] ∧ mapped.codeCpl ≠ 3 ∧
    ∀ la, Machine.translate { mapped with codeCpl := 3 } .read la = Machine.translate mapped .read la :=
  ⟨by decide +kernel, by decide +kernel, by decide +kernel, fun la =>
    (translate_pages (by decide +kernel) (by decide +kernel) (.inr (by decide +kernel)) la).trans
      (translate_pages (s := mapped) (by decide +kernel) (by decide +kernel) (.inl (by decide +kernel)) la).symm⟩

/-- TheTwoFormsDifferInTheX87Pointers, with component 0 loaded. -/
theorem witness_two_forms : p1.mode = .long64 ∧ ((headerOf p1 x64).toBeRestored p1.rfbm).getLsbD 0 = true := by
  decide +kernel

/-! ## Hypotheses met: exceptions -/

/-- UdExactlyWhen: a mode that has the instruction, with each of the three conditions and with none. -/
theorem witness_ud : Supported p1 x64 ∧ Prefix.lock ∈ (Instr.xrstor [.lock] none (.base 3 .none)).prefixes ∧
    State.reset.cr4.getLsbD 18 = false ∧ p1.cr4.getLsbD 18 = true := by
  refine ⟨rfl, ?_, ?_, ?_⟩ <;> decide +kernel

/-- NmExactlyWhen: vector F22. -/
theorem witness_nm : let s := { p1 with cr0 := 8 }
    NoUd s x ∧ s.cr0.getLsbD 3 = true ∧ exec x s = .fault .nm :=
  ⟨⟨by decide, by decide +kernel, by decide +kernel⟩, by decide +kernel, fault_of_faultOf (by decide +kernel)⟩

/-- HeaderOutOfReachFaults in real-address mode: vector F29, and its boundary FDC1H, where only offset 575 is out. -/
theorem witness_reach_real : (NoUd (real 0xFE00) xbx ∧ (real 0xFE00).cr0.getLsbD 3 = false ∧
      OutOfReach (real 0xFE00) xbx 512) ∧ OutOfReach (real 0xFDC1) xbx 575 :=
  ⟨⟨⟨by decide, by decide +kernel, by decide +kernel⟩, by decide +kernel,
    byteAddressable_eq_false_iff.mp (by decide +kernel)⟩, byteAddressable_eq_false_iff.mp (by decide +kernel)⟩

/-- HeaderOutOfReachFaults in 64-bit mode: vectors F26 and F27 (through SS). -/
theorem witness_reach_long : let s := setRegs p1 [(3, 0x800000000000), (5, 0x800000000000)]
    (NoUd s x ∧ s.cr0.getLsbD 3 = false ∧ OutOfReach s x 512) ∧
    NoUd s xbp ∧ OutOfReach s xbp 575 ∧ segmentOf xbp = .ss :=
  ⟨⟨⟨by decide, by decide +kernel, by decide +kernel⟩, by decide +kernel,
      byteAddressable_eq_false_iff.mp (by decide +kernel)⟩,
    ⟨by decide, by decide +kernel, by decide +kernel⟩, byteAddressable_eq_false_iff.mp (by decide +kernel), by decide⟩

/-- HeaderOutOfReachFaults in protected mode: a limit one below the header's last byte (through DS and SS), and a floor
above its first. -/
theorem witness_reach_prot : (NoUd (prot 0 0x223E) x ∧ (prot 0 0x223E).cr0.getLsbD 3 = false ∧
      OutOfReach (prot 0 0x223E) x 575) ∧
    (segmentOf xbp = .ss ∧ OutOfReach (prot 0 0x223E) xbp 575) ∧ OutOfReach (prot 0x2201 0xFFFFFFFF) x 512 :=
  ⟨⟨⟨by decide, by decide +kernel, by decide +kernel⟩, by decide +kernel,
      byteAddressable_eq_false_iff.mp (by decide +kernel)⟩,
    ⟨by decide, byteAddressable_eq_false_iff.mp (by decide +kernel)⟩,
    byteAddressable_eq_false_iff.mp (by decide +kernel)⟩

/-- StackFaultOnlyThroughSs: a limit fault through SS. -/
theorem witness_stack : exec xbp (prot 0 0x223E) = .fault (.ss 0) := fault_of_faultOf (by decide +kernel)

/-- MisalignedOperandFaults: vector F1, and vector F3 with #AC. -/
theorem witness_misaligned : let s := setRegs p1 [(3, 0x2020)]
    let t := { setRegs p1 [(3, 0x2002)] with
      codeCpl := 3, cr0 := 0x40000, rflags := 0x40000
      platform := { p1.platform with acChoice := 4 } }
    ((areaBase s (operandOf s x)).toNat % 64 ≠ 0 ∧ NoUd s x ∧ s.cr0.getLsbD 3 = false ∧
      ∀ o, 512 ≤ o → o < 576 → byteAddressable s (operandOf s x) o = true) ∧
    (areaBase t (operandOf t x)).toNat % 64 ≠ 0 ∧ exec x t = .fault (.ac 0) :=
  ⟨⟨by decide +kernel, ⟨by decide, by decide +kernel, by decide +kernel⟩, by decide +kernel, by decide +kernel⟩,
    by decide +kernel, fault_of_faultOf (by decide +kernel)⟩

/-- PageFaultNamesAFaultingByte: both clauses. -/
theorem witness_page_fault : exec x f28 = .fault (.pf 0 0x2200) ∧ NoUd f28 x ∧ f28.cr0.getLsbD 3 = false ∧
    (∀ o, 512 ≤ o → o < 576 → byteAddressable f28 (operandOf f28 x) o = true) ∧
    (areaBase f28 (operandOf f28 x)).toNat % 64 = 0 ∧
    Machine.translate f28 .read (linearAt f28 (operandOf f28 x) 575) = .pageFault 0 :=
  ⟨fault_of_faultOf (by decide +kernel), ⟨by decide, by decide +kernel, by decide +kernel⟩, by decide +kernel,
    by decide +kernel, by decide +kernel, by decide +kernel⟩

/-- The header of an area in 64-bit mode without translation has been read. -/
theorem headerRead_of {s : State} {i : Instr} (ht : s.translations = [])
    (h1 : (!i.prefixes.contains .lock && s.platform.cpuidXsave && s.cr4.getLsbD 18 && !s.cr0.getLsbD 3 &&
      (areaBase s (operandOf s i)).toNat % 64 == 0) = true)
    (ha : (List.range 832).all (byteAddressable s (operandOf s i)) = true) : HeaderRead s i := by
  simp only [Bool.and_eq_true, Bool.not_eq_true', beq_iff_eq] at h1
  obtain ⟨⟨⟨⟨h1, h2⟩, h3⟩, h4⟩, h5⟩ := h1
  exact ⟨⟨by simpa using h1, h2, h3⟩, h4, h5, fun o _ ho =>
    ⟨List.all_eq_true.mp ha o (List.mem_range.mpr (by omega)), _, translate_nil ht _ _⟩⟩

/-- StandardHeaderFaults: its two clauses, vectors F6 and F9 (and the last byte the rule names, 535). -/
theorem witness_standard_header : let f6 := area 0 8 0 0
    let f9 := poke p1 0x2217 [1]
    (HeaderRead f6 x ∧ (headerOf f6 x).xcompBv.getLsbD 63 = false ∧ (headerOf f6 x).xstateBv.getLsbD 3 = true ∧
      f6.xcr0.getLsbD 3 = false) ∧
    HeaderRead f9 x ∧ (headerOf f9 x).xcompBv.getLsbD 63 = false ∧ areaByte f9 (operandOf f9 x) 535 ≠ 0 :=
  ⟨⟨headerRead_of rfl (by decide +kernel) (by decide +kernel), by decide +kernel, by decide +kernel, by decide +kernel⟩,
    headerRead_of rfl (by decide +kernel) (by decide +kernel), by decide +kernel, by decide +kernel⟩

/-- CompactedHeaderFaults: its four clauses, vectors F5, F11, F12, F14. -/
theorem witness_compacted_header : let f5 := { cp1 with platform := { cp1.platform with cpuidXsavec := false } }
    let f11 := area 7 7 0x800000000000000F 0
    let f12 := area 7 2 0x8000000000000001 0
    let f14 := poke cp1 0x223F [0x80]
    (HeaderRead f5 x ∧ (headerOf f5 x).xcompBv.getLsbD 63 = true ∧ f5.platform.cpuidXsavec = false) ∧
    (HeaderRead f11 x ∧ (headerOf f11 x).xcompBv.getLsbD 63 = true ∧ (headerOf f11 x).xcompBv.getLsbD 3 = true ∧
      f11.xcr0.getLsbD 3 = false) ∧
    (HeaderRead f12 x ∧ (headerOf f12 x).xcompBv.getLsbD 63 = true ∧ (headerOf f12 x).xstateBv.getLsbD 1 = true ∧
      (headerOf f12 x).xcompBv.getLsbD 1 = false) ∧
    (HeaderRead f14 x ∧ (headerOf f14 x).xcompBv.getLsbD 63 = true ∧ areaByte f14 (operandOf f14 x) 575 ≠ 0) :=
  ⟨⟨headerRead_of rfl (by decide +kernel) (by decide +kernel), by decide +kernel, by decide +kernel⟩,
    ⟨headerRead_of rfl (by decide +kernel) (by decide +kernel), by decide +kernel, by decide +kernel, by decide +kernel⟩,
    ⟨headerRead_of rfl (by decide +kernel) (by decide +kernel), by decide +kernel, by decide +kernel, by decide +kernel⟩,
    headerRead_of rfl (by decide +kernel) (by decide +kernel), by decide +kernel, by decide +kernel⟩

/-- A state of protected mode whose floor is above the first byte of the x87 image alone. -/
def low : State := setRegs (prot 0x2001 0xFFFFFFFF) [(0, 1)]

/-- TP1 with every component requested and a page fault on the image of component 2 alone. -/
def f28c : State :=
  { area 7 7 0 0x1F80 with translations :=
      [{ first := 0x2240, last := 0x233F, access := { kind := .read, cpl := 0 }, result := .pageFault 4 }] }

/-- Bytes that evaluate as readable. -/
theorem readable_of {s : State} {op : Operand} {a n : Nat}
    (h : (List.range' a n).all (fun o => byteAddressable s op o &&
      (match Machine.translate s .read (linearAt s op o) with | .physical _ => true | .pageFault _ => false)) = true)
    (o : Nat) (h1 : a ≤ o) (h2 : o < a + n) : Readable s op o := by
  have := List.all_eq_true.mp h o (by simp [List.mem_range'_1]; omega)
  rw [Bool.and_eq_true] at this
  refine ⟨this.1, ?_⟩
  cases ht : Machine.translate s .read (linearAt s op o) with
  | physical p => exact ⟨p, rfl⟩
  | pageFault c => rw [ht] at this; simp at this

/-- ImageFaultsInTheOrderOfTheImages, first clause: the x87 image out of reach; no image stands before it. -/
theorem witness_image_reach : HeaderRead low x ∧ HeaderOk low x ∧ ImageName.IsRead low (headerOf low x) .x87 ∧
    (∀ before : ImageName, ¬ before.rank < ImageName.rank .x87) ∧
    ∃ o, ImageName.Has low (headerOf low x) .x87 o ∧ OutOfReach low x o := by
  refine ⟨⟨⟨by decide, by decide +kernel, by decide +kernel⟩, by decide +kernel, by decide +kernel,
      readable_of (a := 512) (n := 64) (by decide +kernel)⟩,
    headerFault_eq_none_iff.mp (by decide +kernel), ?_, fun _ h => absurd h (Nat.not_lt_zero _), 0, ?_,
    byteAddressable_eq_false_iff.mp (by decide +kernel)⟩
  · show ((headerOf low x).toBeRestored low.rfbm).getLsbD 0 = true
    decide +kernel
  · exact ⟨fxsaveLayout.fcw, List.mem_cons_self, by decide, by decide⟩

/-- ImageFaultsInTheOrderOfTheImages, second clause: component 2 page-faults; the images before it are readable. -/
theorem witness_image_page : HeaderRead f28c x ∧ HeaderOk f28c x ∧
    ImageName.IsRead f28c (headerOf f28c x) (.component 2) ∧
    (∀ before : ImageName, before.IsRead f28c (headerOf f28c x) → before.rank < ImageName.rank (.component 2) →
      ∀ o, before.Has f28c (headerOf f28c x) o → Readable f28c (operandOf f28c x) o) ∧
    (∀ o, ImageName.Has f28c (headerOf f28c x) (.component 2) o → ¬ OutOfReach f28c x o) ∧
    ∃ o code, ImageName.Has f28c (headerOf f28c x) (.component 2) o ∧
      Machine.translate f28c .read (linearAt f28c (operandOf f28c x) o) = .pageFault code := by
  have hoff : componentOffset f28c.platform (headerOf f28c x) 2 = 576 := by decide +kernel
  have hsize : (f28c.platform.ext 2).size = 256 := by decide +kernel
  refine ⟨⟨⟨by decide, by decide +kernel, by decide +kernel⟩, by decide +kernel, by decide +kernel,
      readable_of (a := 512) (n := 64) (by decide +kernel)⟩,
    headerFault_eq_none_iff.mp (by decide +kernel), ⟨by decide, by decide, by decide +kernel⟩, ?_, ?_, 831, 4, ?_,
    by decide +kernel⟩
  · intro before hr hi o ho
    have hi3 : before.rank < 3 := by
      cases before with
      | component k =>
        have := hr.1
        simp only [ImageName.rank] at hi
        omega
      | _ => decide
    exact readable_of (a := 0) (n := 512) (by decide +kernel) o (by omega) (by have := legacy_lt rfl hi3 ho; omega)
  · intro o ho hn
    rw [← byteAddressable_eq_false_iff] at hn
    have h1 : o < 832 := by
      have := ho.2
      omega
    have := List.all_eq_true.mp (by decide +kernel : (List.range 832).all (byteAddressable f28c (operandOf f28c x)) = true)
      o (List.mem_range.mpr h1)
    rw [this] at hn
    cases hn
  · exact ⟨by omega, by omega⟩

/-- MxcsrReservedBitFaults and the second clause of StandardFormLoadsMxcsr: vector F16; and vector CP3, where MXCSR is not
loaded. -/
theorem witness_mxcsr : (HeaderRead f16 x ∧ (headerOf f16 x).xcompBv.getLsbD 63 = false ∧
      StandardHeaderOk f16 (operandOf f16 x) (headerOf f16 x) ∧
      (∀ o, InFootprint f16 (headerOf f16 x) o → Readable f16 (operandOf f16 x) o) ∧
      f16.rfbm.getLsbD 1 = true ∧ loadMxcsr f16 (operandOf f16 x) &&& ~~~f16.platform.mxcsrMask ≠ 0) ∧
    HeaderRead cp3 x ∧ (headerOf cp3 x).xcompBv.getLsbD 63 = true ∧
      CompactedHeaderOk cp3 (operandOf cp3 x) (headerOf cp3 x) ∧
      (∀ o, InFootprint cp3 (headerOf cp3 x) o → Readable cp3 (operandOf cp3 x) o) ∧ cp3.rfbm.getLsbD 1 = false :=
  ⟨⟨headerRead_of rfl (by decide +kernel) (by decide +kernel), by decide +kernel,
      standardIllegal_eq_false_iff.mp (by decide +kernel),
      footprint_readable rfl rfl (by decide +kernel) (by decide +kernel), by decide +kernel, by decide +kernel⟩,
    headerRead_of rfl (by decide +kernel) (by decide +kernel), by decide +kernel,
    compactedIllegal_eq_false_iff.mp (by decide +kernel),
    footprint_readable rfl rfl (by decide +kernel) (by decide +kernel), by decide +kernel⟩

/-- ExceptionsAreTheModesOwn: an exception of real-address mode and one of protected mode. -/
theorem witness_lists : exec xbx (real 0xFE00) = .fault (.gp none) ∧ exec x (prot 0 0x223E) = .fault (.gp (some 0)) :=
  ⟨fault_of_faultOf (by decide +kernel), fault_of_faultOf (by decide +kernel)⟩

end Sys2Proof.Tests
end

section
/-! Proofs. The decoder reads back what the encoder writes (R60 to R72), in the order of the encoding: displacement,
memory operand, opcode, prefixes, instruction. -/

namespace Sys2Proof

/-! ## Displacements (R46, R67, R68) -/

/-- The number whose little-endian bytes these are, at a width that the bytes fill. -/
theorem leBits_leBytes (n : Nat) (d : BitVec (8 * n)) : leBits (8 * n) (leBytes n d.toNat) = d := by
  apply BitVec.eq_of_toNat_eq
  have hd : d.toNat < 256 ^ n := by simpa [Nat.pow_mul] using d.isLt
  rw [leBits, BitVec.toNat_ofNat, leNat_leBytes, Nat.mod_eq_of_lt hd, Nat.mod_eq_of_lt d.isLt]

@[simp] theorem takeDisp16_leBytes (d : BitVec 16) (rest : List Byte) :
    takeDisp16 (leBytes 2 d.toNat ++ rest) = .ok (d, rest) :=
  congrArg (fun v => Except.ok (v, rest)) (leBits_leBytes 2 d)

@[simp] theorem takeDisp32_leBytes (d : BitVec 32) (rest : List Byte) :
    takeDisp32 (leBytes 4 d.toNat ++ rest) = .ok (d, rest) :=
  congrArg (fun v => Except.ok (v, rest)) (leBits_leBytes 4 d)

/-- The displacement is one that the address size has. -/
def Disp.wfFor (a : AddrSize) (needed : Bool) (d : Disp) : Bool :=
  if a = .a16 then d.wf16 needed else d.wf32 needed

/-- mod = 00 announces no displacement, and nothing else does. -/
theorem modOfDisp_eq_zero_iff {d : Disp} : modOfDisp d = 0 ↔ d = .none := by
  cases d <;> simp [modOfDisp]

theorem modOfDisp_ne_three (d : Disp) : modOfDisp d ≠ 3#2 := by
  cases d <;> simp [modOfDisp]

/-- The displacement that mod announces is read back, where the address size has it. -/
theorem takeDisp_encodeDisp {a : AddrSize} {needed : Bool} {d : Disp} (rest : List Byte)
    (hwf : d.wfFor a needed = true) : takeDisp a (modOfDisp d) (encodeDisp d ++ rest) = .ok (d, rest) := by
  cases d with
  | none => rfl
  | disp8 d => rfl
  | disp16 d =>
    have ha : a = .a16 := by
      by_contra ha
      simp [Disp.wfFor, ha, Disp.wf32] at hwf
    simp [takeDisp, modOfDisp, encodeDisp, ha]
  | disp32 d =>
    have ha : a ≠ .a16 := by
      rintro rfl
      simp [Disp.wfFor, Disp.wf16] at hwf
    simp [takeDisp, modOfDisp, encodeDisp, ha]

/-- A displacement that must be there is announced by mod other than 00. -/
theorem modOfDisp_ne_zero_of_needed {a : AddrSize} {needed : Bool} {d : Disp} (hwf : d.wfFor a needed = true) :
    ¬ (modOfDisp d = 0 ∧ needed = true) := by
  rw [modOfDisp_eq_zero_iff]
  rintro ⟨rfl, rfl⟩
  simp [Disp.wfFor, Disp.wf16, Disp.wf32] at hwf

/-! ## The memory operand (R62, R67 to R69) -/

/-- The mod field that the encoder writes for an operand. -/
def MemOperand.modField : MemOperand → BitVec 2
  | .regs16 _ d | .base _ d | .sib _ _ _ d => modOfDisp d
  | .direct16 _ | .direct32 _ | .sibNoBase _ _ _ => 0

/-- The r/m field that the encoder writes for an operand. -/
def MemOperand.rmField : MemOperand → BitVec 3
  | .regs16 r _ => rmOfRegs16 r
  | .direct16 _ => 6
  | .base r _ => r
  | .direct32 _ => 5
  | .sib _ _ _ _ | .sibNoBase _ _ _ => 4

/-- The bytes that the encoder writes after ModRM: SIB and displacement. -/
def MemOperand.tailBytes : MemOperand → List Byte
  | .regs16 _ d | .base _ d => encodeDisp d
  | .direct16 d => leBytes 2 d.toNat
  | .direct32 d => leBytes 4 d.toNat
  | .sib scale index b d => fields233 scale index b :: encodeDisp d
  | .sibNoBase scale index d => fields233 scale index 5 :: leBytes 4 d.toNat

/-- An encoded operand is ModRM with reg = 5 and the bytes after it. -/
theorem encodeMem_eq (m : MemOperand) : encodeMem m = fields233 m.modField 5 m.rmField :: m.tailBytes := by
  cases m <;> rfl

theorem MemOperand.modField_ne_three (m : MemOperand) : m.modField ≠ 3#2 := by
  cases m with
  | regs16 _ d | base _ d | sib _ _ _ d => exact modOfDisp_ne_three d
  | direct16 _ | direct32 _ | sibNoBase _ _ _ => simp [MemOperand.modField]

/-- BP alone has r/m 110. -/
theorem rmOfRegs16_eq_six_iff {r : Regs16} : rmOfRegs16 r = 6 ↔ r = .bp := by
  cases r <;> decide

/-- 16-bit addressing with registers: the operand is read back. -/
theorem decodeMem16_regs16 {r : Regs16} {d : Disp} (rest : List Byte) (hwf : d.wf16 (r == .bp) = true) :
    decodeMem16 (modOfDisp d) (rmOfRegs16 r) (encodeDisp d ++ rest) = .ok (.regs16 r d, rest) := by
  have hd : d.wfFor .a16 (r == .bp) = true := hwf
  have hdirect : ¬ (modOfDisp d = 0 ∧ rmOfRegs16 r = 6) := by
    rw [rmOfRegs16_eq_six_iff, ← beq_iff_eq (a := r)]
    exact modOfDisp_ne_zero_of_needed hd
  simp only [decodeMem16, if_neg hdirect, takeDisp_encodeDisp rest hd, regs16OfRm_rmOfRegs16]

/-- A base register and a displacement: the operand is read back. -/
theorem decodeMem32_base {a : AddrSize} {r : BitVec 3} {d : Disp} (rest : List Byte) (ha : a ≠ .a16) (hr : r ≠ 4)
    (hwf : d.wf32 (r == 5) = true) :
    decodeMem32 a (modOfDisp d) r (encodeDisp d ++ rest) = .ok (.base r d, rest) := by
  have hd : d.wfFor a (r == 5) = true := by rw [Disp.wfFor, if_neg ha, hwf]
  have hdirect : ¬ (modOfDisp d = 0 ∧ r = 5) := by
    rw [← beq_iff_eq (a := r)]
    exact modOfDisp_ne_zero_of_needed hd
  simp only [decodeMem32.eq_def, if_neg hr, if_neg hdirect, takeDisp_encodeDisp rest hd]

/-- A SIB byte with a base register: the operand is read back. -/
theorem decodeSib_sib {a : AddrSize} {scale : BitVec 2} {index b : BitVec 3} {d : Disp} (rest : List Byte)
    (ha : a ≠ .a16) (hwf : d.wf32 (b == 5) = true) :
    decodeSib a (modOfDisp d) (fields233 scale index b) (encodeDisp d ++ rest) = .ok (.sib scale index b d, rest) := by
  have hd : d.wfFor a (b == 5) = true := by rw [Disp.wfFor, if_neg ha, hwf]
  have hnoBase : ¬ (modOfDisp d = 0 ∧ b = 5) := by
    rw [← beq_iff_eq (a := b)]
    exact modOfDisp_ne_zero_of_needed hd
  simp only [decodeSib, field20_fields233, field53_fields233, field76_fields233, if_neg hnoBase,
    takeDisp_encodeDisp rest hd]

/-- The operand is read back from its fields and the bytes after ModRM. -/
theorem decodeMem_tailBytes {a : AddrSize} {m : MemOperand} (rest : List Byte) (hsize : m.wfSize a = true)
    (hform : m.wfForm = true) : decodeMem a m.modField m.rmField (m.tailBytes ++ rest) = .ok (m, rest) := by
  cases m with
  | regs16 r d =>
    rw [decodeMem, if_pos (by simpa [MemOperand.wfSize] using hsize)]
    exact decodeMem16_regs16 rest hform
  | direct16 d =>
    rw [decodeMem, if_pos (by simpa [MemOperand.wfSize] using hsize)]
    simp [decodeMem16, MemOperand.modField, MemOperand.rmField, MemOperand.tailBytes]
  | base r d =>
    have ha : a ≠ .a16 := by simpa [MemOperand.wfSize] using hsize
    obtain ⟨hr, hd⟩ : r ≠ 4 ∧ d.wf32 (r == 5) = true := by simpa [MemOperand.wfForm] using hform
    rw [decodeMem, if_neg ha]
    exact decodeMem32_base rest ha hr hd
  | direct32 d =>
    have ha : a ≠ .a16 := by simpa [MemOperand.wfSize] using hsize
    simp [decodeMem, ha, decodeMem32, MemOperand.modField, MemOperand.rmField, MemOperand.tailBytes]
  | sib scale index b d =>
    have ha : a ≠ .a16 := by simpa [MemOperand.wfSize] using hsize
    rw [decodeMem, if_neg ha]
    exact decodeSib_sib rest ha hform
  | sibNoBase scale index d =>
    have ha : a ≠ .a16 := by simpa [MemOperand.wfSize] using hsize
    simp [decodeMem, ha, decodeMem32, decodeSib, MemOperand.modField, MemOperand.rmField, MemOperand.tailBytes]

/-- After 0F AE an encoded operand is read back. -/
theorem decodeOpcode_encodeMem {a : AddrSize} {m : MemOperand} (rest : List Byte) (hsize : m.wfSize a = true)
    (hform : m.wfForm = true) : decodeOpcode a (0x0F :: (0xAE :: encodeMem m ++ rest)) = .ok (m, rest) := by
  simp [encodeMem_eq, decodeOpcode, m.modField_ne_three, decodeMem_tailBytes rest hsize hform]

/-! ## Prefixes and the REX byte (R60, R63, R64) -/

/-- At the opcode byte the prefixes end. -/
theorem scanPrefixes_opcode (c : CodeSize) (bs : List Byte) :
    scanPrefixes c (0x0F :: bs) = .ok ([], none, 0x0F :: bs) := by
  simp [scanPrefixes, isMandatory, legacyOfByte, rexOfByte]

/-- What a REX byte is to the scan: neither 66H, F2H or F3H nor a legacy byte, and in 64-bit mode its low four bits. -/
theorem rexByte_facts : ∀ q : BitVec 4, isMandatory (4#4 ++ q) = false ∧ legacyOfByte (4#4 ++ q) = none ∧
    rexOfByte .code64 (4#4 ++ q) = some q := by decide

/-- In 64-bit mode a REX byte directly before the opcode is the one in force. -/
theorem scanPrefixes_rex {bs rest : List Byte} (q : BitVec 4)
    (hscan : scanPrefixes .code64 bs = .ok ([], none, rest)) :
    scanPrefixes .code64 ((4#4 ++ q) :: bs) = .ok ([], some q, rest) := by
  obtain ⟨hmand, hlegacy, hrex⟩ := rexByte_facts q
  simp [scanPrefixes, hmand, hlegacy, hrex, hscan]

/-- In 64-bit mode a REX byte with more before the opcode, legacy or REX, is ignored. -/
theorem scanPrefixes_ignoredRex {bs rest : List Byte} {ps : List Prefix} {rex : Option (BitVec 4)} (q : BitVec 4)
    (hscan : scanPrefixes .code64 bs = .ok (ps, rex, rest)) (hfollowed : ps ≠ [] ∨ rex ≠ none) :
    scanPrefixes .code64 ((4#4 ++ q) :: bs) = .ok (.ignoredRex q :: ps, rex, rest) := by
  obtain ⟨hmand, hlegacy, hrex⟩ := rexByte_facts q
  cases ps <;> cases rex <;> simp_all [scanPrefixes]

/-- A legacy byte is read as what it stands for. -/
theorem scanPrefixes_legacy {c : CodeSize} {b : Byte} {bs rest : List Byte} {p : Prefix} {ps : List Prefix}
    {rex : Option (BitVec 4)} (hmand : isMandatory b = false) (hlegacy : legacyOfByte b = some p)
    (hscan : scanPrefixes c bs = .ok (ps, rex, rest)) : scanPrefixes c (b :: bs) = .ok (p :: ps, rex, rest) := by
  simp [scanPrefixes, hmand, hlegacy, hscan]

/-- One encoded byte before others is read back; an ignored REX byte needs something it is ignored for. -/
theorem scanPrefixes_encodePrefix {c : CodeSize} {p : Prefix} {ps : List Prefix} {rex : Option (BitVec 4)}
    {bs rest : List Byte} (hwf : p.wf c = true) (hscan : scanPrefixes c bs = .ok (ps, rex, rest))
    (hfollowed : ∀ q, p = .ignoredRex q → ps ≠ [] ∨ rex ≠ none) :
    scanPrefixes c (encodePrefix p :: bs) = .ok (p :: ps, rex, rest) := by
  cases p with
  | segment r => cases r <;> exact scanPrefixes_legacy (by decide) (by decide) hscan
  | addressSize => exact scanPrefixes_legacy (by decide) (by decide) hscan
  | lock => exact scanPrefixes_legacy (by decide) (by decide) hscan
  | ignoredRex q =>
    obtain rfl : c = .code64 := by simpa [Prefix.wf] using hwf
    exact scanPrefixes_ignoredRex q hscan (hfollowed q rfl)

/-- Encoded prefixes before something that itself has none are read back (R60). -/
theorem scanPrefixes_map_encodePrefix {c : CodeSize} {ps : List Prefix} {rex : Option (BitVec 4)}
    {bs rest : List Byte} (hwf : ps.all (Prefix.wf c) = true) (hscan : scanPrefixes c bs = .ok ([], rex, rest))
    (hlast : ∀ q, ps.getLast? = some (.ignoredRex q) → rex ≠ none) :
    scanPrefixes c (ps.map encodePrefix ++ bs) = .ok (ps, rex, rest) := by
  induction ps with
  | nil => exact hscan
  | cons p ps ih =>
    obtain ⟨hp, hps⟩ : p.wf c = true ∧ ps.all (Prefix.wf c) = true := by simpa using hwf
    cases ps with
    | nil => exact scanPrefixes_encodePrefix hp hscan fun q hq => .inr (hlast q (by simp [hq]))
    | cons p' ps =>
      exact scanPrefixes_encodePrefix hp (ih hps fun q hq => hlast q (by simpa using hq)) fun _ _ => .inl (by simp)

/-- The low four bits W, R, X, B of the REX byte that the encoder writes. -/
def rexNibble (w : Bool) (q : RexBits) : BitVec 4 :=
  BitVec.ofBool w ++ BitVec.ofBool q.r ++ BitVec.ofBool q.x ++ BitVec.ofBool q.b

theorem encodeRex_eq (w : Bool) (q : RexBits) : encodeRex w q = 4#4 ++ rexNibble w q := by
  obtain ⟨r, x, b⟩ := q
  revert w r x b; decide

@[simp] theorem rexNibble_w (w : Bool) (q : RexBits) : (rexNibble w q)[3] = w := by
  obtain ⟨r, x, b⟩ := q
  revert w r x b; decide

@[simp] theorem rexBitsOf_rexNibble (w : Bool) (q : RexBits) : rexBitsOf (rexNibble w q) = q := by
  obtain ⟨r, x, b⟩ := q
  revert w r x b; decide

/-! ## The instruction (R60 to R72) -/

/-- The low four bits of an instruction's REX byte in force, if it has one. -/
def Instr.rexNibble? : Instr → Option (BitVec 4)
  | .xrstor _ rex _ => rex.map (rexNibble false)
  | .xrstor64 _ q _ => some (rexNibble true q)

/-- The REX byte in force and the opcode, as the encoder writes them after the prefixes. -/
def Instr.rexOpcode (i : Instr) : List Byte :=
  match i.rexNibble? with
  | none => 0x0F :: 0xAE :: encodeMem i.mem
  | some q => (4#4 ++ q) :: 0x0F :: 0xAE :: encodeMem i.mem

/-- An encoded instruction is its prefixes, then REX and opcode. -/
theorem encode_eq (i : Instr) : encode i = i.prefixes.map encodePrefix ++ i.rexOpcode := by
  cases i with
  | xrstor ps rex m =>
    cases rex with
    | none => rfl
    | some q => simp [encode, Instr.prefixes, Instr.rexOpcode, Instr.rexNibble?, Instr.mem, encodeRex_eq]
  | xrstor64 ps q m => simp [encode, Instr.prefixes, Instr.rexOpcode, Instr.rexNibble?, Instr.mem, encodeRex_eq]

/-- The parts of an instruction make it again. -/
theorem mkInstr_parts (i : Instr) : mkInstr i.prefixes i.rexNibble? i.mem = i := by
  cases i with
  | xrstor ps rex m => cases rex <;> simp [mkInstr, Instr.prefixes, Instr.rexNibble?, Instr.mem]
  | xrstor64 ps q m => simp [mkInstr, Instr.prefixes, Instr.rexNibble?, Instr.mem]

theorem Instr.rexNibble?_eq_none_iff {i : Instr} : i.rexNibble? = none ↔ i.rex = none := by
  cases i <;> simp [Instr.rexNibble?, Instr.rex]

/-- Encoded prefixes and REX are read back up to the opcode. -/
theorem scanPrefixes_encode {c : CodeSize} {i : Instr} (rest : List Byte) (hprefixes : i.wfPrefixes c = true)
    (hrex : i.wfRex c = true) :
    scanPrefixes c (encode i ++ rest) =
      .ok (i.prefixes, i.rexNibble?, 0x0F :: (0xAE :: encodeMem i.mem ++ rest)) := by
  obtain ⟨hall, hlast⟩ := Bool.and_eq_true_iff.mp hprefixes
  rw [encode_eq, List.append_assoc]
  refine scanPrefixes_map_encodePrefix hall ?_ ?_
  · cases hn : i.rexNibble? with
    | none =>
      rw [Instr.rexOpcode, hn]
      exact scanPrefixes_opcode c _
    | some q =>
      have hsome : i.rex ≠ none := by simp [← Instr.rexNibble?_eq_none_iff, hn]
      obtain rfl : c = .code64 := by simpa [Instr.wfRex, hsome] using hrex
      rw [Instr.rexOpcode, hn]
      exact scanPrefixes_rex q (scanPrefixes_opcode .code64 _)
  · intro q hq
    rw [Ne, Instr.rexNibble?_eq_none_iff]
    intro hnone
    simp [hq, hnone] at hlast

/-- The bytes of a well-formed instruction decode to it, and what follows is left over (R60 to R72). -/
theorem decode_encode_append {c : CodeSize} {i : Instr} (rest : List Byte) (hwf : i.wf c = true) :
    decode c (encode i ++ rest) = .ok (i, rest) := by
  simp only [Instr.wf, Bool.and_eq_true] at hwf
  obtain ⟨⟨⟨⟨hprefixes, hrex⟩, hsize⟩, hform⟩, hlength⟩ := hwf
  have hlen : i.length ≤ 15 := of_decide_eq_true hlength
  have hopcode : decodeOpcode (c.addrSize (i.prefixes.contains .addressSize))
      (0x0F :: (0xAE :: encodeMem i.mem ++ rest)) = .ok (i.mem, rest) := decodeOpcode_encodeMem rest hsize hform
  simp only [decode, scanPrefixes_encode rest hprefixes hrex, hopcode, mkInstr_parts, if_pos hlen]

/-- A well-formed instruction has at most 15 bytes (R72). -/
theorem Instr.length_le_of_wf {c : CodeSize} (i : Instr) (hwf : i.wf c = true) : i.length ≤ 15 :=
  of_decide_eq_true (Bool.and_eq_true_iff.mp hwf).2

/-- The encoder writes as many bytes as the instruction's length says (R72). -/
theorem encode_length (i : Instr) : (encode i).length = i.length := by
  cases i with
  | xrstor ps rex m => exact Laws.EncodeLength.xrstor ps rex m
  | xrstor64 ps q m => exact Laws.EncodeLength.xrstor64 ps q m

end Sys2Proof
end

section
/-! Proofs. What a step does with the bytes at the instruction pointer (R9, R13, R73), and XRSTOR64 outside 64-bit mode
(R3, R65). -/

namespace Sys2Proof.Machine

/-! ## Fetching -/

/-- Bytes that can all be fetched stand at the front of what is fetched, and fetching goes on behind them. -/
theorem fetchFrom_append {s : State} {bs : List Byte} {k : Nat} (n : Nat)
    (hbytes : ∀ j, j < bs.length → fetchByte s (k + j) = bs[j]?) :
    fetchFrom s k (bs.length + n) = bs ++ fetchFrom s (k + bs.length) n := by
  induction bs generalizing k with
  | nil => simp
  | cons b bs ih =>
    have hhead : fetchByte s k = some b := hbytes 0 (by simp)
    have htail : ∀ j, j < bs.length → fetchByte s (k + 1 + j) = bs[j]? := fun j hj => by
      rw [Nat.add_assoc, Nat.add_comm 1 j]
      exact hbytes (j + 1) (by simpa using hj)
    rw [List.length_cons, Nat.add_right_comm, fetchFrom, hhead, List.cons_append, ← Nat.add_assoc,
      Nat.add_right_comm k, ← ih htail]

/-- Fetchable bytes of at most the longest instruction's length are what the decoder sees first (R13, R72). -/
theorem fetchBytes_eq_append {s : State} {bs : List Byte} (hlen : bs.length ≤ maxLength)
    (hbytes : ∀ j, j < bs.length → fetchByte s j = bs[j]?) : ∃ rest, fetchBytes s = bs ++ rest := by
  refine ⟨fetchFrom s (0 + bs.length) (maxLength - bs.length), ?_⟩
  rw [fetchBytes, ← fetchFrom_append _ (by simpa using hbytes), Nat.add_sub_cancel' hlen]

/-! ## One step -/

/-- Bytes that decode: the step is the decoded instruction's meaning. -/
theorem step_of_decode_ok {s : State} {i : Instr} {rest : List Byte}
    (hdecode : decode s.codeSize (fetchBytes s) = .ok (i, rest)) : step s = exec i s := by
  simp only [step, fetchDecode, hdecode]

/-- Bytes that do not decode: the step is refused. -/
theorem step_of_decode_error {s : State} {e : DecodeError} (hdecode : decode s.codeSize (fetchBytes s) = .error e) :
    step s = .refused (decodeRefusal (fetchBytes s).length e) := by
  simp only [step, fetchDecode, hdecode]

/-- The refusal of bytes that do not decode, by their number and the decoder's reason. -/
theorem decodeRefusal_eq (available : Nat) (e : DecodeError) :
    decodeRefusal available e =
      if e = .truncated then if available < 15 then .fetchUnavailable else .notXrstor .tooLong
      else .notXrstor e := by
  cases e <;> rfl

/-- Settles O15: a fetch that decodes runs the instruction, and any other is refused with the decoder's reason. -/
theorem stepRunsTheDecodedInstruction : Obligations.StepRunsTheDecodedInstruction := by
  intro s
  refine ⟨fun i rest hdecode => step_of_decode_ok hdecode, fun e hdecode => ?_⟩
  rw [step_of_decode_error hdecode, decodeRefusal_eq]

/-- Settles O16: the encoding stands at the front of the fetched bytes, and decoding it leaves the rest alone. -/
theorem encodedBytesAtThePointerRun : Obligations.EncodedBytesAtThePointerRun := by
  intro s i hwf hbytes
  rw [← encode_length] at hbytes
  have hlen : (encode i).length ≤ maxLength := by
    rw [encode_length]
    exact i.length_le_of_wf hwf
  obtain ⟨rest, hfetch⟩ := fetchBytes_eq_append hlen hbytes
  have hdecode : decode s.codeSize (fetchBytes s) = .ok (i, rest) := by
    rw [hfetch]
    exact decode_encode_append rest hwf
  exact step_of_decode_ok hdecode

/-! ## XRSTOR64 outside 64-bit mode -/

/-- `exec` answers XRSTOR64 with the refusal in every mode but 64-bit mode. -/
theorem exec_xrstor64_of_ne_long64 (ps : List Prefix) (q : RexBits) (m : MemOperand) {s : State}
    (hmode : s.mode ≠ .long64) : exec (.xrstor64 ps q m) s = .refused .notEncodable := by
  show execXrstor64 ps q m s = .refused .notEncodable
  unfold execXrstor64
  cases hs : s.mode with
  | long64 => exact absurd hs hmode
  | real | prot | v86 | compat => rfl

/-- Settles O5, by the mode. -/
theorem xrstorSixtyFourIsRefusedOutsideLongMode : Obligations.XrstorSixtyFourIsRefusedOutsideLongMode :=
  fun ps q m _ hmode => exec_xrstor64_of_ne_long64 ps q m hmode

end Sys2Proof.Machine
end

section
/-! Proofs. The requested-feature bitmap (R7, R11, R83): its bits, and that nothing else of the general registers enters
an execution but the effective address. -/

namespace Sys2Proof.Machine

/-- EDX:EAX bit by bit: EAX below bit 32, EDX from there on. -/
theorem edxEax_getLsbD {s : State} {b : Nat} (hb : b < 64) :
    s.edxEax.getLsbD b = if b < 32 then (s.reg rax).getLsbD b else (s.reg rdx).getLsbD (b - 32) := by
  unfold State.edxEax
  rw [BitVec.getLsbD_append]
  split
  · simp [*]
  · simp [show b - 32 < 32 by omega]

/-- EDX:EAX as a number. -/
theorem edxEax_toNat (s : State) :
    s.edxEax.toNat = ((s.reg rdx).toNat % 2 ^ 32) * 2 ^ 32 + (s.reg rax).toNat % 2 ^ 32 := by
  unfold State.edxEax
  rw [BitVec.toNat_append, ← Nat.shiftLeft_add_eq_or_of_lt (BitVec.isLt _), Nat.shiftLeft_eq]
  simp only [BitVec.toNat_setWidth]

/-- Settles O17: the number of EDX:EAX, and its bits under XCR0. -/
theorem rfbmIsXcrZeroAndMask : Obligations.RfbmIsXcrZeroAndMask := by
  intro s
  refine ⟨edxEax_toNat s, fun b hb => ?_⟩
  rw [State.rfbm, BitVec.getLsbD_and, edxEax_getLsbD hb]

/-! ## Another register file -/

section RegisterFile

variable {s : State} {g : Vector Word64 16} {i : Instr}

/-- RFBM takes the low halves of RAX and RDX alone. -/
theorem rfbm_congr_of_low_halves (hrax : (State.reg { s with gpr := g } rax).setWidth 32 = (s.reg rax).setWidth 32)
    (hrdx : (State.reg { s with gpr := g } rdx).setWidth 32 = (s.reg rdx).setWidth 32) :
    State.rfbm { s with gpr := g } = s.rfbm := by
  simp only [State.rfbm, State.edxEax, hrax, hrdx]

/-- The operand takes the effective address alone. -/
theorem operandOf_congr_of_effectiveAddress (hea : effectiveAddress { s with gpr := g } i = effectiveAddress s i) :
    operandOf { s with gpr := g } i = operandOf s i := by
  simp only [operandOf, hea]

/-- With RFBM and the operand fixed, no condition reads a general register. -/
theorem faultConditions_gpr (op : Operand) (hrfbm : State.rfbm { s with gpr := g } = s.rfbm) :
    faultConditions { s with gpr := g } i op = faultConditions s i op := by
  have himages (h : Header) : imagesToRead { s with gpr := g } h = imagesToRead s h := by
    unfold imagesToRead
    rw [hrfbm]
    rfl
  have hmxcsr (h : Header) : mxcsrFault { s with gpr := g } op h = mxcsrFault s op h := by
    unfold mxcsrFault
    rw [hrfbm]
    rfl
  unfold faultConditions imageFaults
  rw [himages, hmxcsr]
  rfl

/-- With RFBM and the operand fixed, the restored state takes nothing else from the general registers. -/
theorem restoredWith_gpr_congr (form : Form) (len : Nat) (op : Operand) (h : Header)
    (hrfbm : State.rfbm { s with gpr := g } = s.rfbm) :
    restoredWith form { s with gpr := g } len op h = { restoredWith form s len op h with gpr := g } := by
  have hx87 : newX87 form { s with gpr := g } op h = newX87 form s op h := by
    unfold newX87
    rw [hrfbm]
    rfl
  have hmxcsr : newMxcsr { s with gpr := g } op h = newMxcsr s op h := by
    unfold newMxcsr
    rw [hrfbm]
    rfl
  have hxmm : newXmm { s with gpr := g } op h = newXmm s op h := by
    unfold newXmm newXmmReg
    rw [hrfbm]
    rfl
  have hcomps : newComps { s with gpr := g } op h = newComps s op h := by
    unfold newComps newComp
    rw [hrfbm]
    rfl
  have hxinuse : newXinuse { s with gpr := g } h = newXinuse s h := by
    unfold newXinuse
    rw [hrfbm]
  unfold restoredWith
  rw [hx87, hmxcsr, hxmm, hcomps, hxinuse, hrfbm]
  rfl

/-- `restore` with another register file of the same RFBM and operand: the same outcome, but for the register file. -/
theorem restore_gpr (form : Form) (hrfbm : State.rfbm { s with gpr := g } = s.rfbm)
    (hop : operandOf { s with gpr := g } i = operandOf s i) :
    restore form { s with gpr := g } i =
      match restore form s i with
      | .next t => .next { t with gpr := g }
      | .fault f => .fault f
      | .refused r => .refused r := by
  have hfault : restoreFault { s with gpr := g } i = restoreFault s i := by
    rw [restoreFault, hop, faultConditions_gpr _ hrfbm, restoreFault]
  have hstate : restored form { s with gpr := g } i = { restored form s i with gpr := g } := by
    rw [restored, hop]
    exact restoredWith_gpr_congr form i.length _ _ hrfbm
  unfold restore
  rw [hfault, hstate]
  cases restoreFault s i <;> rfl

end RegisterFile

/-- Settles O44: the register file enters an execution through RFBM and the effective address only. -/
theorem upperHalvesOfTheMaskAreIgnored : Obligations.UpperHalvesOfTheMaskAreIgnored := by
  intro i s g hea hrax hrdx
  have hrfbm := rfbm_congr_of_low_halves hrax hrdx
  have hop := operandOf_congr_of_effectiveAddress hea
  cases i with
  | xrstor ps rex m => exact restore_gpr .xrstor hrfbm hop
  | xrstor64 ps q m =>
    by_cases hmode : s.mode = .long64
    · rw [exec_xrstor64 ps q m hmode, exec_xrstor64 ps q m (s := { s with gpr := g }) hmode]
      exact restore_gpr .xrstor64 hrfbm hop
    · rw [exec_xrstor64_of_ne_long64 ps q m hmode]
      exact exec_xrstor64_of_ne_long64 ps q m hmode

end Sys2Proof.Machine
end

section
/-! Proofs. How a run ends (R162; log entry 24). -/

namespace Sys2Proof.Machine

/-- What a run of at most `n` steps from `s` says of its end (R162). -/
def RunEnd.Meets (stop : Word64) (n : Nat) (s : State) : RunEnd → Prop
  | .finished t => t.pc = stop ∧ ∃ k, k ≤ n ∧ StepsTo stop k s t
  | .fault f t => t.pc ≠ stop ∧ step t = .fault f ∧ ∃ k, k < n ∧ StepsTo stop k s t
  | .refused r t => t.pc ≠ stop ∧ step t = .refused r ∧ ∃ k, k < n ∧ StepsTo stop k s t
  | .running t => t.pc ≠ stop ∧ StepsTo stop n s t

/-- A completed step before the end puts one step before the run that follows it. -/
theorem RunEnd.Meets.of_step {stop : Word64} {n : Nat} {s t : State} {e : RunEnd} (hpc : s.pc ≠ stop)
    (hstep : step s = .next t) (hrun : e.Meets stop n t) : e.Meets stop (n + 1) s := by
  cases e with
  | finished u =>
    obtain ⟨hu, k, hk, hsteps⟩ := hrun
    exact ⟨hu, k + 1, Nat.succ_le_succ hk, .next hpc hstep hsteps⟩
  | fault f u =>
    obtain ⟨hu, hfault, k, hk, hsteps⟩ := hrun
    exact ⟨hu, hfault, k + 1, Nat.succ_lt_succ hk, .next hpc hstep hsteps⟩
  | refused r u =>
    obtain ⟨hu, hrefused, k, hk, hsteps⟩ := hrun
    exact ⟨hu, hrefused, k + 1, Nat.succ_lt_succ hk, .next hpc hstep hsteps⟩
  | running u =>
    obtain ⟨hu, hsteps⟩ := hrun
    exact ⟨hu, .next hpc hstep hsteps⟩

/-- Every run ends as R162 says, by induction on the steps it may take. -/
theorem runUntil_meets (stop : Word64) (n : Nat) (s : State) : (runUntil stop n s).Meets stop n s := by
  induction n generalizing s with
  | zero =>
    by_cases hpc : s.pc = stop
    · rw [runUntil_stop hpc]
      exact ⟨hpc, 0, Nat.le_refl 0, .here s⟩
    · rw [runUntil, if_neg hpc]
      exact ⟨hpc, .here s⟩
  | succ n ih =>
    by_cases hpc : s.pc = stop
    · rw [runUntil_stop hpc]
      exact ⟨hpc, 0, Nat.zero_le _, .here s⟩
    · rw [runUntil_succ hpc]
      cases hstep : step s with
      | next t => exact (ih t).of_step hpc hstep
      | fault f => exact ⟨hpc, hstep, 0, Nat.succ_pos n, .here s⟩
      | refused r => exact ⟨hpc, hstep, 0, Nat.succ_pos n, .here s⟩

/-- Settles O60: each end of the run is what `RunEnd.Meets` says of it. -/
theorem runEndsAtTheEndOrTheFirstStop : Obligations.RunEndsAtTheEndOrTheFirstStop := by
  intro stop n s
  have hrun := runUntil_meets stop n s
  cases hend : runUntil stop n s <;> rwa [hend] at hrun

end Sys2Proof.Machine
end

section
/-! Proofs. The legacy region under the default layout: the fields loaded, the tag word, the bytes read (R43, R49). -/

namespace Sys2Proof.Machine

/-! ## The tag word (R43) -/

/-- The last two bits of a word are its lowest digit to base 4. -/
theorem append_two_mod_four {w : Nat} (x : BitVec w) (y : BitVec 2) : (x ++ y).toNat % 4 = y.toNat := by
  rw [BitVec.toNat_append, ← Nat.shiftLeft_add_eq_or_of_lt y.isLt, Nat.shiftLeft_eq]
  have := y.isLt
  omega

/-- The digits above them are those of the word in front. -/
theorem append_two_div_four {w : Nat} (x : BitVec w) (y : BitVec 2) : (x ++ y).toNat / 4 = x.toNat := by
  rw [BitVec.toNat_append, ← Nat.shiftLeft_add_eq_or_of_lt y.isLt, Nat.shiftLeft_eq]
  have := y.isLt
  omega

/-- Digit `p` to base 4 of the tag word is the tag of physical register `p`. -/
theorem fullTagWord_digit (abridged : Byte) (top : BitVec 3) (st : Vector (BitVec 80) 8) {p : Nat} (hp : p < 8) :
    (fullTagWord abridged top st).toNat / 4 ^ p % 4 = (fullTag abridged top st (BitVec.ofNat 3 p)).toNat := by
  have hlast (y : BitVec 2) : y.toNat % 4 = y.toNat := Nat.mod_eq_of_lt y.isLt
  unfold fullTagWord
  interval_cases p <;>
    simp only [Nat.pow_zero, Nat.div_one, Nat.pow_succ', ← Nat.div_div_eq_div_mul, append_two_div_four,
      append_two_mod_four, hlast] <;>
    rfl

/-- A recomputed tag is never 11 (empty). -/
theorem tagOf_ne_three (v : BitVec 80) : tagOf v ≠ 3 := by
  unfold tagOf
  split
  · decide
  · split <;> decide

/-- A register is tagged empty exactly where its abridged bit is 0. -/
theorem fullTag_eq_three_iff {abridged : Byte} {top : BitVec 3} {st : Vector (BitVec 80) 8} {p : BitVec 3} :
    fullTag abridged top st p = 3 ↔ abridged.getLsbD p.toNat = false := by
  unfold fullTag
  split
  next hbit => exact iff_of_false (tagOf_ne_three _) (by simp [hbit])
  next hbit => exact iff_of_true rfl (by simpa using hbit)

/-! ## Ranges of the default layout (D4) -/

/-- The default range of ST(k). -/
theorem fxsaveLayout_st (k : Fin 8) : fxsaveLayout.st[k] = { offset := 32 + 16 * k.val, length := 10 } := by
  simp [fxsaveLayout]

/-- The default range of XMMj. -/
theorem fxsaveLayout_xmm (j : Fin 16) : fxsaveLayout.xmm[j] = { offset := 160 + 16 * j.val, length := 16 } := by
  simp [fxsaveLayout]

/-- Every default range of the x87 image lies in its extent (R49). -/
theorem fxsaveLayout_x87_within : ∀ r ∈ fxsaveLayout.x87,
    r.offset + r.length ≤ 24 ∨ (32 ≤ r.offset ∧ r.offset + r.length ≤ 160) := by decide

/-! ## The fields loaded (R43) -/

/-- A bit of a field is the bit of the area that the field's range gives it (D1). -/
theorem legacyField_of_range {s : State} {op : Operand} {r : ByteRange} {o n w b : Nat}
    (hr : r = { offset := o, length := n }) (hw : b < w) (hn : b < 8 * n) :
    (legacyField s op r w).getLsbD b = (areaByte s op (o + b / 8)).getLsbD (b % 8) := by
  subst hr
  exact legacyField_getLsbD hw hn

/-- A 32-bit pointer is zero above bit 31 (D8). -/
theorem pointer32_of_range {s : State} {op : Operand} {r : ByteRange} {o b : Nat}
    (hr : r = { offset := o, length := 4 }) (hb : b < 64) :
    ((legacyField s op r 32).setWidth 64).getLsbD b =
      (decide (b < 32) && (areaByte s op (o + b / 8)).getLsbD (b % 8)) := by
  rw [BitVec.getLsbD_setWidth, decide_eq_true hb, Bool.true_and]
  by_cases h32 : b < 32
  · rw [legacyField_of_range hr h32 (by omega), decide_eq_true h32, Bool.true_and]
  · rw [BitVec.getLsbD_of_ge _ b (by omega), decide_eq_false h32, Bool.false_and]

/-- The tag word loaded is recomputed from the abridged one (R43). -/
theorem loadX87_ftw (form : Form) (s : State) (op : Operand) : (loadX87 form s op).ftw =
    fullTagWord (legacyField s op s.platform.layout.ftw 8) (topOf (legacyField s op s.platform.layout.fsw 16))
      (loadSt s op) := rfl

/-- The tag of physical register `p` is 11 exactly where bit `p` of the abridged tag is 0 (R43). -/
theorem loadX87_tag_empty_iff (form : Form) (s : State) (op : Operand) {p : Nat} (hp : p < 8) :
    ((loadX87 form s op).ftw.toNat / 4 ^ p) % 4 = 3 ↔
      (legacyField s op s.platform.layout.ftw 8).getLsbD p = false := by
  have hthree (tag : BitVec 2) : tag.toNat = 3 ↔ tag = 3 := (BitVec.toNat_eq (y := 3#2)).symm
  have hpn : (BitVec.ofNat 3 p).toNat = p := by simpa using hp
  rw [loadX87_ftw, fullTagWord_digit _ _ _ hp, hthree, fullTag_eq_three_iff, hpn]

/-! ## The bytes read (R49) -/

/-- NXMM, by the mode (D18). -/
theorem nxmm_eq (s : State) : s.nxmm = if s.mode = .long64 then 16 else 8 := by
  unfold State.nxmm
  cases s.mode <;> rfl

section DefaultLayout

variable {s : State} (hl : s.platform.layout = fxsaveLayout)

include hl

/-- Under the default layout the x87 image is bytes 0 to 23 and 32 to 159. -/
theorem has_x87_iff {h : Header} {o : Nat} : ImageName.Has s h .x87 o ↔ o < 24 ∨ (32 ≤ o ∧ o < 160) := by
  simp only [ImageName.Has, hl, InRange]
  constructor
  · rintro ⟨r, hr, hlo, hhi⟩
    have := fxsaveLayout_x87_within r hr
    omega
  · rintro (ho | ⟨hlo, hhi⟩)
    · exact ⟨{ offset := 0, length := 24 }, by decide, Nat.zero_le o, by simpa using ho⟩
    · exact ⟨{ offset := 32, length := 128 }, by decide, hlo, by omega⟩

/-- Under the default layout the MXCSR image is bytes 24 to 27. -/
theorem has_mxcsr_iff {h : Header} {o : Nat} : ImageName.Has s h .mxcsr o ↔ 24 ≤ o ∧ o < 28 := by
  simp only [ImageName.Has, hl]
  exact Iff.rfl

/-- Under the default layout the XMM images are the 16 * NXMM bytes from 160 on. -/
theorem has_xmm_iff {h : Header} {o : Nat} : ImageName.Has s h .xmm o ↔ 160 ≤ o ∧ o < 160 + 16 * s.nxmm := by
  have hnxmm : s.nxmm ≤ 16 := by
    unfold State.nxmm
    split <;> omega
  simp only [ImageName.Has, hl, fxsaveLayout_xmm, InRange]
  constructor
  · rintro ⟨j, hj, hlo, hhi⟩
    omega
  · rintro ⟨hlo, hhi⟩
    exact ⟨⟨(o - 160) / 16, by omega⟩, by simp only; omega, by simp only; omega, by simp only; omega⟩

/-- The footprint under the default layout: the header and the images named one by one (R49). -/
theorem inFootprint_default_iff {h : Header} {o : Nat} : InFootprint s h o ↔
    (512 ≤ o ∧ o < 576) ∨
    ((h.toBeRestored s.rfbm).getLsbD 0 = true ∧ (o < 24 ∨ (32 ≤ o ∧ o < 160))) ∨
    (h.loadsMxcsr s.rfbm = true ∧ 24 ≤ o ∧ o < 28) ∨
    ((h.toBeRestored s.rfbm).getLsbD 1 = true ∧ 160 ≤ o ∧ o < 160 + 16 * s.nxmm) ∨
    ∃ i, 2 ≤ i ∧ i ≤ 62 ∧ (h.toBeRestored s.rfbm).getLsbD i = true ∧
      componentOffset s.platform h i ≤ o ∧ o < componentOffset s.platform h i + (s.platform.ext i).size := by
  refine or_congr Iff.rfl ⟨?_, ?_⟩
  · rintro ⟨image, hread, ho⟩
    cases image with
    | x87 => exact .inl ⟨hread, (has_x87_iff hl).mp ho⟩
    | mxcsr => exact .inr (.inl ⟨hread, (has_mxcsr_iff hl).mp ho⟩)
    | xmm => exact .inr (.inr (.inl ⟨hread, (has_xmm_iff hl).mp ho⟩))
    | component i =>
      obtain ⟨hlo, hhi, hbit⟩ := hread
      exact .inr (.inr (.inr ⟨i, hlo, hhi, hbit, ho⟩))
  · rintro (⟨hread, ho⟩ | ⟨hread, ho⟩ | ⟨hread, ho⟩ | ⟨i, hlo, hhi, hbit, ho⟩)
    · exact ⟨.x87, hread, (has_x87_iff hl).mpr ho⟩
    · exact ⟨.mxcsr, hread, (has_mxcsr_iff hl).mpr ho⟩
    · exact ⟨.xmm, hread, (has_xmm_iff hl).mpr ho⟩
    · exact ⟨.component i, ⟨hlo, hhi, hbit⟩, ho⟩

end DefaultLayout

/-- Settles O58: each field is read from its default range, and each image has its default bytes. -/
theorem legacyRegionUnderTheDefaultLayout : Obligations.LegacyRegionUnderTheDefaultLayout := by
  refine ⟨fun form s op hl => ?_, fun s h o hl => ?_⟩
  · intro x bit
    have hst (k : Fin 8) : x.st[k] = legacyField s op s.platform.layout.st[k] 80 := by simp [x, loadX87, loadSt]
    have htag (p : Nat) (hp : p < 8) : (legacyField s op s.platform.layout.ftw 8).getLsbD p = bit 4 p :=
      legacyField_of_range (congrArg LegacyLayout.ftw hl) hp (by omega)
    refine ⟨fun b hb => legacyField_of_range (congrArg LegacyLayout.fcw hl) hb (by omega),
      fun b hb => legacyField_of_range (congrArg LegacyLayout.fsw hl) hb (by omega),
      fun p hp => htag p hp ▸ loadX87_tag_empty_iff form s op hp,
      fun b hb => legacyField_of_range (congrArg LegacyLayout.fop hl) hb (by omega),
      fun k b hb => ?_,
      fun b hb => legacyField_of_range (congrArg LegacyLayout.mxcsr hl) hb (by omega),
      fun j b hj hb => ?_, ?_⟩
    · rw [hst]
      exact legacyField_of_range (by rw [hl, fxsaveLayout_st]) hb (by omega)
    · rw [loadXmm_eq s op ⟨j, hj⟩]
      exact legacyField_of_range (by rw [hl, fxsaveLayout_xmm]) hb (by omega)
    · cases form with
      | xrstor64 =>
        exact ⟨rfl, rfl, fun b hb => ⟨legacyField_of_range (congrArg LegacyLayout.fip64 hl) hb (by omega),
          legacyField_of_range (congrArg LegacyLayout.fdp64 hl) hb (by omega)⟩⟩
      | xrstor =>
        exact ⟨fun b hb => ⟨legacyField_of_range (congrArg LegacyLayout.fcs hl) hb (by omega),
            legacyField_of_range (congrArg LegacyLayout.fds hl) hb (by omega)⟩,
          fun b hb => ⟨pointer32_of_range (congrArg LegacyLayout.fip hl) hb,
            pointer32_of_range (congrArg LegacyLayout.fdp hl) hb⟩⟩
  · rw [← nxmm_eq]
    exact inFootprint_default_iff hl

end Sys2Proof.Machine
end

section
/-! Proofs. When an execution completes, and that it leaves the restored state (R82, R140, R161). -/

namespace Sys2Proof.Machine

/-- All that a completed execution can be: the mode has the instruction, no condition held, and the state is the
restored one. -/
theorem exec_next_iff {i : Instr} {s t : State} :
    exec i s = .next t ↔ Supported s i ∧ restoreFault s i = none ∧ t = restored (formOf i) s i := by
  constructor
  · intro hnext
    have hs : Supported s i := by
      cases i with
      | xrstor ps rex m => trivial
      | xrstor64 ps q m =>
        by_contra hmode
        simp [exec_xrstor64_of_ne_long64 ps q m hmode] at hnext
    rw [exec_of_supported hs, restore_next_iff] at hnext
    exact ⟨hs, hnext⟩
  · rintro ⟨hs, hnext⟩
    rwa [exec_of_supported hs, restore_next_iff]

/-- Every byte of the footprint can be read exactly when the header has been read and every image's bytes can be. -/
theorem footprint_readable_iff {s : State} {op : Operand} {h : Header} :
    (∀ o, InFootprint s h o → Readable s op o) ↔
      (addressFault s op headerImage = none ∧ pageFault s op headerImage = none) ∧
        ∀ image ∈ imagesToRead s h, ∀ o ∈ image, Readable s op o := by
  rw [header_readable_iff]
  constructor
  · exact fun hall => ⟨fun o hlo hhi => hall o (.inl ⟨hlo, hhi⟩),
      fun image himage o ho => hall o (mem_images_iff.mp (.inr ⟨image, himage, ho⟩))⟩
  · rintro ⟨hheader, himages⟩ o (⟨hlo, hhi⟩ | ⟨image, hread, ho⟩)
    · exact hheader o hlo hhi
    · exact himages _ (mem_imagesToRead.mpr ⟨image, hread, rfl⟩) o (ImageName.mem_offsets.mpr ho)

/-- No condition of R140 holds exactly when everything R161 asks for does. -/
theorem restoreFault_eq_none_iff {s : State} {i : Instr} : restoreFault s i = none ↔ Completes s i := by
  rw [restoreFault, firstFault_eq_none_iff]
  simp only [faultConditions, List.forall_mem_append, List.forall_mem_cons, imageFaults_none_iff, udFault_eq_none_iff,
    nmFault_eq_none_iff, alignmentFault_eq_none_iff, headerFault_eq_none_iff, mxcsrFault_eq_none_iff]
  constructor
  · rintro ⟨⟨⟨⟨hlock, hxsave, hosxsave⟩, hts, haddress, haligned, hpage, ⟨hstandard, hcompacted⟩, -⟩, himages⟩,
      hmxcsr, -⟩
    exact ⟨hlock, hxsave, hosxsave, hts, haligned, footprint_readable_iff.mpr ⟨⟨haddress, hpage⟩, himages⟩, hstandard,
      hcompacted, hmxcsr⟩
  · rintro ⟨hlock, hxsave, hosxsave, hts, haligned, hreadable, hstandard, hcompacted, hmxcsr⟩
    obtain ⟨⟨haddress, hpage⟩, himages⟩ := footprint_readable_iff.mp hreadable
    exact ⟨⟨⟨⟨hlock, hxsave, hosxsave⟩, hts, haddress, haligned, hpage, ⟨hstandard, hcompacted⟩, List.forall_mem_nil _⟩,
      himages⟩, hmxcsr, List.forall_mem_nil _⟩

/-- Where everything R161 asks for holds, the execution completes with the restored state. -/
theorem exec_of_completes {i : Instr} {s : State} (hs : Supported s i) (hc : Completes s i) :
    exec i s = .next (restoredWith (formOf i) s i.length (operandOf s i) (headerOf s i)) :=
  exec_next_iff.mpr ⟨hs, restoreFault_eq_none_iff.mpr hc, rfl⟩

end Sys2Proof.Machine
end

section
/-! Proofs. The closed form of the restored state, component by component (R86 to R95, R101). -/

namespace Sys2Proof.Machine

/-! ## The masks (R86, R92) -/

/-- The header says that component `k`, if requested, is loaded: XSTATE_BV has it, and in the compacted form XCOMP_BV
too. -/
def Header.loads (h : Header) (k : Nat) : Bool := h.xstateBv.getLsbD k && (!h.compacted || h.xcompBv.getLsbD k)

/-- A component is restored where it is requested and the header has it loaded. -/
theorem Header.toBeRestored_getLsbD (h : Header) (rfbm : Word64) {k : Nat} (hk : k < 63) :
    (h.toBeRestored rfbm).getLsbD k = (rfbm.getLsbD k && h.loads k) := by
  unfold Header.toBeRestored Header.loads
  cases h.compacted
  · simp
  · simp only [if_true, BitVec.getLsbD_and, Header.format_getLsbD, decide_eq_true hk, Bool.true_and, Bool.not_true,
      Bool.false_or]
    ac_rfl

/-- A component is initialized where it is requested and the header does not have it loaded. -/
theorem Header.toBeInitialized_getLsbD (h : Header) (rfbm : Word64) {k : Nat} (hk : k < 63) :
    (h.toBeInitialized rfbm).getLsbD k = (rfbm.getLsbD k && !h.loads k) := by
  have hnot (v : Word64) : (~~~v).getLsbD k = !v.getLsbD k := by
    rw [BitVec.getLsbD_not, decide_eq_true (by omega), Bool.true_and]
  unfold Header.toBeInitialized Header.loads
  cases h.compacted
  · simp [hnot]
  · simp [hnot, Header.format_getLsbD, hk, Bool.and_or_distrib_left]

/-- A value chosen by the two masks: they are disjoint and together RFBM (R86, R92). -/
theorem Header.ite_masks {α : Type} (h : Header) (rfbm : Word64) {k : Nat} (hk : k < 63) (loaded init old : α) :
    (if (h.toBeRestored rfbm).getLsbD k then loaded else if (h.toBeInitialized rfbm).getLsbD k then init else old) =
      if rfbm.getLsbD k = false then old else if h.loads k then loaded else init := by
  rw [h.toBeRestored_getLsbD _ hk, h.toBeInitialized_getLsbD _ hk]
  cases rfbm.getLsbD k <;> cases h.loads k <;> rfl

section Standard

variable {h : Header} (hstd : h.xcompBv.getLsbD 63 = false)

include hstd

/-- The standard form's TO_BE_RESTORED (R86). -/
theorem Header.toBeRestored_standard (rfbm : Word64) : h.toBeRestored rfbm = rfbm &&& h.xstateBv := by
  simp only [Header.toBeRestored, Header.compacted, hstd, Bool.false_eq_true, if_false]

/-- The standard form's TO_BE_INITIALIZED (R86). -/
theorem Header.toBeInitialized_standard (rfbm : Word64) : h.toBeInitialized rfbm = rfbm &&& ~~~h.xstateBv := by
  simp only [Header.toBeInitialized, Header.compacted, hstd, Bool.false_eq_true, if_false]

end Standard

/-- In the compacted form a requested component is loaded where XCOMP_BV and XSTATE_BV both have it (R92). -/
theorem Header.loads_compacted {h : Header} (hcomp : h.xcompBv.getLsbD 63 = true) (k : Nat) :
    h.loads k = (h.xcompBv.getLsbD k && h.xstateBv.getLsbD k) := by
  simp only [Header.loads, Header.compacted, hcomp, Bool.not_true, Bool.false_or, Bool.and_comm]

/-! ## XINUSE (R101) -/

/-- XINUSE of a component: unchanged where it is not requested, else whether it is loaded. -/
theorem newXinuse_eq_loads (s : State) (h : Header) {k : Nat} (hk : k < 63) :
    (newXinuse s h).getLsbD k = if s.rfbm.getLsbD k = false then s.xinuse.getLsbD k else h.loads k := by
  rw [newXinuse_getLsbD hk, h.toBeRestored_getLsbD _ hk, h.toBeInitialized_getLsbD _ hk]
  cases s.rfbm.getLsbD k <;> cases h.loads k <;> simp

/-- XINUSE of a component by the two masks: they are disjoint, so loading comes first. -/
theorem newXinuse_eq_masks (s : State) (h : Header) {k : Nat} (hk : k < 63) :
    (newXinuse s h).getLsbD k =
      if (h.toBeRestored s.rfbm).getLsbD k then true
      else if (h.toBeInitialized s.rfbm).getLsbD k then false else s.xinuse.getLsbD k := by
  rw [newXinuse_eq_loads s h hk, h.ite_masks _ hk]
  cases h.loads k <;> rfl

/-! ## The XMM registers and MXCSR (R89, R94) -/

/-- Each XMM register of the restored state. -/
theorem newXmm_getElem (s : State) (op : Operand) (h : Header) (j : Fin 16) :
    (newXmm s op h)[j] =
      if (if s.mode = .long64 then 16 else 8) ≤ j.val then s.xmm[j]
      else if (h.toBeRestored s.rfbm).getLsbD 1 then legacyField s op s.platform.layout.xmm[j] 128
      else if (h.toBeInitialized s.rfbm).getLsbD 1 then 0 else s.xmm[j] := by
  rw [← nxmm_eq, ← loadXmm_eq]
  simp [newXmm, newXmmReg]

/-- In the compacted form MXCSR goes with component 1. -/
theorem newMxcsr_compacted {s : State} {h : Header} (op : Operand) (hcomp : h.xcompBv.getLsbD 63 = true) :
    newMxcsr s op h =
      if (h.toBeRestored s.rfbm).getLsbD 1 then loadMxcsr s op
      else if (h.toBeInitialized s.rfbm).getLsbD 1 then mxcsrInit else s.mxcsr := by
  simp only [newMxcsr, Header.loadsMxcsr, Header.compacted, hcomp, if_true, Bool.true_and]

/-! ## What the two forms set -/

/-- Settles O31: the masks of the standard form decide for each register below NXMM. -/
theorem standardFormSetsTheXmmRegisters : Obligations.StandardFormSetsTheXmmRegisters := by
  intro i s hs hc hstd
  refine ⟨_, exec_of_completes hs hc, fun j => ?_, ?_⟩
  · rw [restoredWith_xmm, newXmm_getElem, Header.toBeRestored_standard hstd, Header.toBeInitialized_standard hstd]
    rfl
  · rw [restoredWith_xinuse, newXinuse_eq_masks _ _ (by omega), Header.toBeRestored_standard hstd,
      Header.toBeInitialized_standard hstd]

/-- Settles O32: the masks of the standard form decide, and a component lies at its standard-form offset. -/
theorem standardFormSetsTheComponents : Obligations.StandardFormSetsTheComponents := by
  intro i s hs hc hstd
  refine ⟨_, exec_of_completes hs hc, fun k hlo hhi => ⟨?_, ?_⟩⟩
  · have hoffset : componentOffset s.platform (headerOf s i) k = (s.platform.ext k).offset := by
      simp only [componentOffset, Header.compacted, hstd, Bool.false_eq_true, if_false]
    rw [restoredWith_comp _ _ _ _ _ hlo hhi, newComp, loadComponent, hoffset, Header.toBeRestored_standard hstd,
      Header.toBeInitialized_standard hstd]
  · rw [restoredWith_xinuse, newXinuse_eq_masks _ _ (by omega), Header.toBeRestored_standard hstd,
      Header.toBeInitialized_standard hstd]

/-- Settles O34: XMM and MXCSR go by the bits 1 of RFBM, XCOMP_BV and XSTATE_BV alone. -/
theorem compactedFormSetsTheSseState : Obligations.CompactedFormSetsTheSseState := by
  intro i s hs hc hcomp
  refine ⟨_, exec_of_completes hs hc, fun j => ?_, ?_, ?_⟩
  · rw [restoredWith_xmm, newXmm_getElem, Header.ite_masks _ _ (by omega), ite_or]
    simp only [Header.loads_compacted hcomp, Bool.and_eq_true]
    rfl
  · rw [restoredWith_mxcsr, newMxcsr_compacted _ hcomp, Header.ite_masks _ _ (by omega)]
    simp only [Header.loads_compacted hcomp, Bool.and_eq_true]
    rfl
  · rw [restoredWith_xinuse, newXinuse_eq_loads _ _ (by omega), Header.loads_compacted hcomp]

/-- Settles O40: `Header.loads` is what R101's table says, in both forms. -/
theorem xinuseSaysWhatWasLoaded : Obligations.XinuseSaysWhatWasLoaded :=
  fun _ _ hs hc => ⟨_, exec_of_completes hs hc, fun _ hk => newXinuse_eq_loads _ _ hk⟩

/-! ## The instruction pointer (R13, R99) -/

/-- The width of the instruction pointer, by the mode (R13). -/
theorem pcWidth_eq (s : State) :
    s.pcWidth = if s.mode = .long64 then 64 else if s.mode = .real then 16 else if s.code32 then 32 else 16 := by
  unfold State.pcWidth
  cases s.mode <;> rfl

/-- No instruction pointer is wider than 64 bits. -/
theorem pcWidth_le (s : State) : s.pcWidth ≤ 64 := by
  rw [pcWidth_eq]
  split_ifs <;> omega

/-- A truncated sum is the sum of the numbers modulo the width. -/
theorem lowBits_add_ofNat_toNat {w : Nat} (hw : w ≤ 64) (v : Word64) (n : Nat) :
    (lowBits w (v + BitVec.ofNat 64 n)).toNat = (v.toNat + n) % 2 ^ w := by
  rw [lowBits_toNat hw, BitVec.toNat_add, BitVec.toNat_ofNat, Nat.add_mod_mod,
    Nat.mod_mod_of_dvd _ (Nat.pow_dvd_pow 2 hw)]

/-- Settles O38: the pointer is the truncated sum, and the encoder writes as many bytes as the length says. -/
theorem instructionPointerAdvances : Obligations.InstructionPointerAdvances := by
  intro i s hs hc
  refine ⟨_, exec_of_completes hs hc, ?_⟩
  rw [restoredWith_pc, State.nextPc, lowBits_add_ofNat_toNat (pcWidth_le s), pcWidth_eq, encode_length]

/-! ## The frame (R34) -/

section NotRequested

variable {s : State} {op : Operand} {h : Header} {k : Nat}

theorem newX87_of_not_requested (form : Form) (hreq : s.rfbm.getLsbD 0 = false) : newX87 form s op h = s.x87 := by
  rw [newX87, h.ite_masks _ (by omega), if_pos hreq]

theorem newXmm_of_not_requested (hreq : s.rfbm.getLsbD 1 = false) : newXmm s op h = s.xmm := by
  have hreg (j : Nat) (old : BitVec 128) : newXmmReg s op h j old = old := by
    rw [newXmmReg, h.ite_masks _ (by omega), if_pos hreq, ite_self]
  simp [newXmm, hreg]

/-- Without component 1 MXCSR is loaded in the standard form with component 2 only. -/
theorem newMxcsr_of_not_requested (hreq : s.rfbm.getLsbD 1 = false)
    (hform : s.rfbm.getLsbD 2 = false ∨ h.xcompBv.getLsbD 63 = true) : newMxcsr s op h = s.mxcsr := by
  cases hcomp : h.xcompBv.getLsbD 63 with
  | true => rw [newMxcsr_compacted op hcomp, h.ite_masks _ (by omega), if_pos hreq]
  | false =>
    have h2 : s.rfbm.getLsbD 2 = false := hform.resolve_right (Bool.eq_false_iff.mp hcomp)
    simp only [newMxcsr, Header.loadsMxcsr, Header.compacted, hcomp, hreq, h2, Bool.or_self, Bool.false_and,
      Bool.false_eq_true, if_false]

theorem newComp_of_not_requested (old : List Byte) (hk : k < 63) (hreq : s.rfbm.getLsbD k = false) :
    newComp s op h k old = old := by
  rw [newComp, h.ite_masks _ hk, if_pos hreq]

end NotRequested

/-- Settles O39: the restored state writes no other field, and of a component not requested nothing. -/
theorem everythingElseIsUnchanged : Obligations.EverythingElseIsUnchanged := by
  intro i s t hnext
  obtain ⟨-, -, rfl⟩ := exec_next_iff.mp hnext
  unfold restored
  refine ⟨rfl, rfl, rfl, rfl, rfl, rfl, rfl, rfl, rfl, rfl, rfl, rfl, fun _ => rfl,
    newX87_of_not_requested _, newXmm_of_not_requested, fun hmode j hj => ?_, newMxcsr_of_not_requested,
    fun k hlo hhi hreq => ?_, fun k hk hreq => ?_⟩
  · rw [restoredWith_xmm, newXmm_getElem, if_neg hmode, if_pos hj]
  · rw [restoredWith_comp _ _ _ _ _ hlo hhi, newComp_of_not_requested _ (by omega) hreq]
  · rw [restoredWith_xinuse, newXinuse_eq_loads _ _ hk, if_pos hreq]

end Sys2Proof.Machine
end

section
/-! Proofs. Every step keeps the invariant, part by part (R13, R24, R26, R160). -/

namespace Sys2Proof.Machine

/-- A truncated value is within its width. -/
theorem lowBits_lowBits {w : Nat} (hw : w ≤ 64) (v : Word64) : lowBits w (lowBits w v) = lowBits w v := by
  apply BitVec.eq_of_toNat_eq
  rw [lowBits_toNat hw, lowBits_toNat hw, Nat.mod_mod]

/-- MXCSR stays without reserved bits: an image that sets one is refused (R138), and the initial value sets none. -/
theorem newMxcsr_legal {s : State} {op : Operand} {h : Header} (hinv : s.Inv) (hfault : mxcsrFault s op h = none) :
    mxcsrLegal s.platform (newMxcsr s op h) = true := by
  unfold newMxcsr
  split
  next hloads => exact mxcsrLegal_iff.mpr (mxcsrFault_eq_none_iff.mp hfault hloads)
  next =>
    split
    · exact hinv.mxcsr_init_legal
    · exact hinv.mxcsr_legal

/-- A supported component keeps an image of SIZE(i) bytes, loaded, initialized or unchanged. -/
theorem newComp_length {s : State} (op : Operand) (h : Header) {k : Nat} (hinv : s.Inv) (hlo : 2 ≤ k) (hhi : k ≤ 62)
    (hsupp : s.platform.xcr0Supported.getLsbD k = true) :
    (newComp s op h k (s.comp k)).length = (s.platform.ext k).size := by
  unfold newComp
  split
  · exact areaBytes_length s op _ _
  · split
    · exact hinv.init_sizes k hlo hhi hsupp
    · exact hinv.comp_sizes k hlo hhi hsupp

/-- The restored state meets the invariant, when the MXCSR image has been checked. -/
theorem restoredWith_inv {s : State} {op : Operand} {h : Header} (form : Form) (len : Nat) (hinv : s.Inv)
    (hfault : mxcsrFault s op h = none) : (restoredWith form s len op h).Inv where
  mem_wf := hinv.mem_wf
  xcr0_bit63 := hinv.xcr0_bit63
  xcr0_supported := hinv.xcr0_supported
  init_sizes := hinv.init_sizes
  comp_sizes k hlo hhi hsupp := by
    rw [restoredWith_comp _ _ _ _ _ hlo hhi]
    exact newComp_length op h hinv hlo hhi hsupp
  mxcsr_init_legal := hinv.mxcsr_init_legal
  mxcsr_legal := newMxcsr_legal hinv hfault
  pc_width := lowBits_lowBits (pcWidth_le s) _

/-- A completed execution keeps the invariant. -/
theorem exec_inv {i : Instr} {s t : State} (hinv : s.Inv) (hnext : exec i s = .next t) : t.Inv := by
  obtain ⟨-, hfault, rfl⟩ := exec_next_iff.mp hnext
  exact restoredWith_inv _ _ hinv (mxcsrFault_eq_none_iff.mpr (restoreFault_eq_none_iff.mp hfault).mxcsr_legal)

/-- All that a completed step can be: the instruction fetched, executed. -/
theorem step_next {s t : State} (hnext : step s = .next t) : ∃ i, exec i s = .next t := by
  cases hdecode : decode s.codeSize (fetchBytes s) with
  | ok r =>
    obtain ⟨i, rest⟩ := r
    exact ⟨i, step_of_decode_ok hdecode ▸ hnext⟩
  | error e => simp [step_of_decode_error hdecode] at hnext

/-- Settles O6: a completed step executes an instruction, and an execution keeps the invariant. -/
theorem stepKeepsTheInvariant : Obligations.StepKeepsTheInvariant := by
  intro s t hinv hnext
  obtain ⟨i, hexec⟩ := step_next hnext
  exact exec_inv hinv hexec

end Sys2Proof.Machine
end

section
/-! Proofs. The numbers of addresses: a 32-bit offset alone (R67), and the linear address of a byte (R48). -/

namespace Sys2Proof.Machine

/-! ## A 32-bit offset alone (R67) -/

/-- A truncated sum with a sign-extended displacement, as integers: the first summand need be known modulo 2^64 only. -/
theorem lowBits_add_signExtend_toNat {w n : Nat} (hw : w ≤ 64) {v : Word64} (hv : v.toNat = n % 2 ^ 64)
    (d : BitVec 32) : ((lowBits w (v + d.signExtend 64)).toNat : Int) = (n + d.toInt) % 2 ^ w := by
  have hdvd : (2 : Int) ^ w ∣ 2 ^ 64 := pow_dvd_pow 2 hw
  have hd : ((d.signExtend 64).toNat : Int) = d.toInt % 2 ^ 64 := by
    rw [BitVec.signExtend, BitVec.toNat_ofInt, Int.toNat_of_nonneg (Int.emod_nonneg _ (by decide))]
    rfl
  rw [lowBits_toNat hw, BitVec.toNat_add, hv]
  simp only [Int.natCast_emod, Int.natCast_add, Nat.cast_pow, Nat.cast_ofNat]
  rw [hd, Int.emod_emod_of_dvd _ hdvd, Int.add_emod, Int.emod_emod_of_dvd _ hdvd, Int.emod_emod_of_dvd _ hdvd,
    ← Int.add_emod]

/-- The low 32 bits of a sign-extended 32-bit displacement are the displacement. -/
theorem lowBits_signExtend_toNat (d : BitVec 32) : (lowBits 32 (d.signExtend 64)).toNat = d.toNat := by
  have hlow : (d.signExtend 64).setWidth 32 = d := by
    apply BitVec.eq_of_getLsbD_eq
    intro b hb
    rw [BitVec.getLsbD_setWidth, BitVec.getLsbD_signExtend, if_pos hb, decide_eq_true hb, Bool.true_and,
      decide_eq_true (by omega), Bool.true_and]
  rw [lowBits, BitVec.toNat_setWidth_of_le (by omega), hlow]

/-- The effective address of a 32-bit offset alone in 64-bit mode: relative to the next instruction, cut to the address
size. -/
theorem effectiveAddress_ripRelative {s : State} {i : Instr} {d : BitVec 32} (hmem : i.mem = .direct32 d)
    (hmode : s.mode = .long64) :
    ((effectiveAddress s i).toNat : Int) = (s.pc.toNat + i.length + d.toInt) % 2 ^ addrWidth (i.addrSize .code64) := by
  have hcode : s.codeSize = .code64 := by rw [State.codeSize, hmode]
  have hwidth : s.pcWidth = 64 := by rw [State.pcWidth, hmode]
  have hnext : (s.nextPc i.length).toNat = (s.pc.toNat + i.length) % 2 ^ 64 := by
    rw [State.nextPc, hwidth, lowBits_add_ofNat_toNat (by omega)]
  have haddr : addrWidth (i.addrSize .code64) ≤ 64 := by
    cases i.addrSize .code64 <;> decide
  rw [effectiveAddress, addressSum, hmem, hcode]
  exact lowBits_add_signExtend_toNat haddr hnext d

/-- Outside 64-bit mode the code segment is a 16-bit or a 32-bit one. -/
theorem codeSize_ne_code64 {s : State} (hmode : s.mode ≠ .long64) : s.codeSize ≠ .code64 := by
  unfold State.codeSize
  cases hm : s.mode with
  | long64 => exact absurd hm hmode
  | real | v86 => exact CodeSize.noConfusion
  | prot | compat => cases s.code32 <;> decide

/-- Settles O20: relative to the next instruction in 64-bit mode, absolute elsewhere. -/
theorem offsetAloneAddressing : Obligations.OffsetAloneAddressing := by
  intro s i d hmem
  refine ⟨fun hmode hprefix => ?_, fun hmode hprefix => ?_, fun hmode hsize => ?_⟩
  · have hsize : i.addrSize .code64 = .a64 := by simp [Instr.addrSize, hprefix, CodeSize.addrSize]
    rw [effectiveAddress_ripRelative hmem hmode, hsize, addrWidth]
  · have hsize : i.addrSize .code64 = .a32 := by simp [Instr.addrSize, hprefix, CodeSize.addrSize]
    rw [effectiveAddress_ripRelative hmem hmode, hsize, addrWidth]
  · rw [effectiveAddress, hsize, addressSum, hmem]
    simp only [if_neg (codeSize_ne_code64 hmode)]
    rw [zero_add]
    exact lowBits_signExtend_toNat d

/-! ## The linear address of a byte (R48) -/

/-- The linear address of a byte as a number. -/
theorem linearAt_toNat (s : State) (op : Operand) (o : Nat) :
    (linearAt s op o).toNat = ((segBase s op.seg).toNat + op.ea.toNat + o) % 2 ^ linearWidth s := by
  have hw : linearWidth s ≤ 64 := by
    unfold linearWidth
    cases s.mode <;> decide
  rw [linearAt, lowBits_add_ofNat_toNat hw, BitVec.toNat_add, Nat.add_mod,
    Nat.mod_mod_of_dvd _ (Nat.pow_dvd_pow 2 hw), ← Nat.add_mod]

/-- In real-address mode the base is 16 times the selector. -/
theorem segBase_real_toNat {s : State} (hmode : s.mode = .real) (r : SegReg) :
    (segBase s r).toNat = (s.segs.get r).selector.toNat * 16 := by
  have := (s.segs.get r).selector.isLt
  simp only [segBase, hmode, BitVec.toNat_shiftLeft, BitVec.toNat_setWidth, Nat.shiftLeft_eq]
  omega

/-- Settles O57, by the mode: its width and its base of the segment. -/
theorem linearAddressOfAByte : Obligations.LinearAddressOfAByte := by
  intro s op o
  rw [linearAt_toNat]
  cases hmode : s.mode with
  | real => simp only [segBase_real_toNat hmode, linearWidth, hmode]
  | long64 => cases hseg : op.seg <;> simp [segBase, linearWidth, hmode]
  | prot | v86 | compat => simp only [segBase, linearWidth, hmode]

end Sys2Proof.Machine
end

section
/-! Proofs. The conditions of R140 up to the alignment of the operand (R47, R129, R130). -/

namespace Sys2Proof.Machine

/-- The general-protection exception, as the mode's list writes it. -/
theorem gpFault_eq_modeGp (s : State) : gpFault s = modeGp s := by
  unfold gpFault modeGp
  cases s.mode <;> rfl

/-- The exception of a misaligned operand in the terms of the registers (R130). -/
theorem misalignedFault_eq (s : State) (op : Operand) : misalignedFault s op =
    if s.mode ≠ .real ∧ s.cr0.getLsbD 18 = true ∧ s.rflags.getLsbD 18 = true ∧ s.cpl = 3 ∧
        s.platform.acChoice.getLsbD ((areaBase s op).toNat % 64) = true
      then .ac 0 else modeGp s := by
  simp only [misalignedFault, gpFault_eq_modeGp, State.acEnabled, State.am, State.eflagsAc, Bool.and_eq_true, and_assoc]

/-- A misaligned operand has a condition that holds, so some condition is raised. -/
theorem exec_faults_of_misaligned {i : Instr} {s : State} (hs : Supported s i)
    (hmis : (areaBase s (operandOf s i)).toNat % 64 ≠ 0) : ∃ f, exec i s = .fault f := by
  have hfault : restoreFault s i ≠ none := fun hnone => hmis (restoreFault_eq_none_iff.mp hnone).aligned
  obtain ⟨f, hf⟩ := Option.ne_none_iff_exists'.mp hfault
  exact ⟨f, by rw [exec_of_supported hs, restore_fault_iff, hf]⟩

/-- Settles O51: where the three conditions before it do not hold, the alignment's own is the first. -/
theorem misalignedOperandFaults : Obligations.MisalignedOperandFaults := by
  intro i s hs hmis
  refine ⟨exec_faults_of_misaligned hs hmis, fun hud hts haddr => ?_⟩
  have hud' : udFault s i = none := udFault_eq_none_iff.mpr hud
  have hnm : nmFault s = none := nmFault_eq_none_iff.mpr hts
  have haddress : addressFault s (operandOf s i) headerImage = none := by
    simpa only [addressFault_eq_none_iff, headerImage, headerOffset, mem_span, and_imp] using haddr
  have halign : alignmentFault s (operandOf s i) = some (misalignedFault s (operandOf s i)) := if_neg hmis
  rw [exec_of_supported hs, restore_fault_iff, restoreFault, faultConditions, hud', hnm, haddress, halign,
    misalignedFault_eq]
  rfl

end Sys2Proof.Machine
end

section
/-! Proofs. Another privilege level of the code segment (R145). -/

namespace Sys2Proof.Machine

section PrivilegeLevel

variable {s : State} {level : BitVec 2}
  (htranslate : ∀ la, translate { s with codeCpl := level } .read la = translate s .read la)

include htranslate

/-- Where reads translate alike, every byte of the area is the same at the other level. -/
theorem areaByte_level (op : Operand) (o : Nat) : areaByte { s with codeCpl := level } op o = areaByte s op o := by
  simp only [areaByte, htranslate]
  rfl

theorem areaBytes_level (op : Operand) (o n : Nat) :
    areaBytes { s with codeCpl := level } op o n = areaBytes s op o n := by
  simp only [areaBytes, areaByte_level htranslate]

theorem readHeader_level (op : Operand) : readHeader { s with codeCpl := level } op = readHeader s op := by
  simp only [readHeader, areaRead, areaBytes_level htranslate]

theorem legacyField_level (op : Operand) (r : ByteRange) (w : Nat) :
    legacyField { s with codeCpl := level } op r w = legacyField s op r w :=
  legacyField_congr fun o _ => areaByte_level htranslate op o

theorem pageFault_level (op : Operand) (image : List Nat) :
    pageFault { s with codeCpl := level } op image = pageFault s op image := by
  have hbyte : bytePageFault { s with codeCpl := level } op = bytePageFault s op := by
    funext o
    simp only [bytePageFault, htranslate]
    rfl
  simp only [pageFault, hbyte]

theorem loadX87_level (form : Form) (op : Operand) :
    loadX87 form { s with codeCpl := level } op = loadX87 form s op := by
  simp only [loadX87, loadSt, legacyField_level htranslate]

theorem loadXmm_level (op : Operand) (j : Nat) : loadXmm { s with codeCpl := level } op j = loadXmm s op j := by
  simp only [loadXmm, legacyField_level htranslate]

theorem loadMxcsr_level (op : Operand) : loadMxcsr { s with codeCpl := level } op = loadMxcsr s op :=
  legacyField_level htranslate op _ _

/-- With alignment checking off as well, the same condition is the first that holds. -/
theorem restoreFault_level (hac : s.acEnabled = false) (i : Instr) :
    restoreFault { s with codeCpl := level } i = restoreFault s i := by
  have halign (op : Operand) : alignmentFault { s with codeCpl := level } op = alignmentFault s op := by
    have hac' : State.acEnabled { s with codeCpl := level } = false := hac
    simp only [alignmentFault, misalignedFault, hac, hac', Bool.false_eq_true, false_and, and_false, if_false]
    rfl
  have himages (op : Operand) (h : Header) : imageFaults { s with codeCpl := level } op h = imageFaults s op h := by
    simp only [imageFaults, pageFault_level htranslate]
    rfl
  have hmxcsr (op : Operand) (h : Header) : mxcsrFault { s with codeCpl := level } op h = mxcsrFault s op h := by
    simp only [mxcsrFault, loadMxcsr_level htranslate]
    rfl
  simp only [restoreFault, faultConditions, halign, himages, hmxcsr, readHeader_level htranslate,
    pageFault_level htranslate]
  rfl

/-- The restored state records the other level, and takes nothing else from it. -/
theorem restored_level (form : Form) (i : Instr) :
    restored form { s with codeCpl := level } i =
      { restored form s i with
        codeCpl := level
        xrstorInfo := { (restored form s i).xrstorInfo with cpl := State.cpl { s with codeCpl := level } } } := by
  have hx87 (op : Operand) (h : Header) : newX87 form { s with codeCpl := level } op h = newX87 form s op h := by
    simp only [newX87, loadX87_level htranslate]
    rfl
  have hmxcsr (op : Operand) (h : Header) : newMxcsr { s with codeCpl := level } op h = newMxcsr s op h := by
    simp only [newMxcsr, loadMxcsr_level htranslate]
    rfl
  have hxmm (op : Operand) (h : Header) : newXmm { s with codeCpl := level } op h = newXmm s op h := by
    simp only [newXmm, newXmmReg, loadXmm_level htranslate]
    rfl
  have hcomps (op : Operand) (h : Header) : newComps { s with codeCpl := level } op h = newComps s op h := by
    simp only [newComps, newComp, loadComponent, areaBytes_level htranslate]
    rfl
  simp only [restored, restoredWith, readHeader_level htranslate, hx87, hmxcsr, hxmm, hcomps]
  rfl

/-- `restore` at the other level: the same outcome, but for the level and its record. -/
theorem restore_level (form : Form) (hac : s.acEnabled = false) (i : Instr) :
    restore form { s with codeCpl := level } i =
      match restore form s i with
      | .next t => .next { t with
          codeCpl := level
          xrstorInfo := { t.xrstorInfo with cpl := State.cpl { s with codeCpl := level } } }
      | .fault f => .fault f
      | .refused r => .refused r := by
  unfold restore
  rw [restoreFault_level htranslate hac, restored_level htranslate]
  cases restoreFault s i <;> rfl

end PrivilegeLevel

/-- Settles O45: the level enters an execution through the translation, the alignment check and XRSTOR_INFO only. -/
theorem privilegeLevelGatesNothing : Obligations.PrivilegeLevelGatesNothing := by
  intro i s level hac htranslate
  cases i with
  | xrstor ps rex m => exact restore_level htranslate .xrstor hac _
  | xrstor64 ps q m =>
    by_cases hmode : s.mode = .long64
    · rw [exec_xrstor64 ps q m hmode, exec_xrstor64 ps q m (s := { s with codeCpl := level }) hmode]
      exact restore_level htranslate .xrstor64 hac _
    · rw [exec_xrstor64_of_ne_long64 ps q m hmode]
      exact exec_xrstor64_of_ne_long64 ps q m hmode

end Sys2Proof.Machine
end

section
/-! Proofs. The state after reset (R33, R160): it meets the invariant, and an XRSTOR raises #UD there. -/

namespace Sys2Proof.Machine

/-- Of the components 2 to 62 the reset state's platform supports component 2 alone (log entry 2). -/
theorem resetPlatform_supported {k : Nat} (hlo : 2 ≤ k) (hhi : k ≤ 62)
    (hsupp : resetPlatform.xcr0Supported.getLsbD k = true) : k = 2 := by
  have hall : ∀ k < 63, 2 ≤ k → resetPlatform.xcr0Supported.getLsbD k = true → k = 2 := by decide
  exact hall k (by omega) hlo hsupp

/-- Settles O7: component 2 has 256 bytes, there and in its initial image, and the other parts are closed facts. -/
theorem resetMeetsTheInvariant : Obligations.ResetMeetsTheInvariant where
  mem_wf := rfl
  xcr0_bit63 := by decide
  xcr0_supported := by decide
  init_sizes k hlo hhi hsupp := by
    obtain rfl := resetPlatform_supported hlo hhi hsupp
    exact List.length_replicate
  comp_sizes k hlo hhi hsupp := by
    obtain rfl := resetPlatform_supported hlo hhi hsupp
    exact List.length_replicate
  mxcsr_init_legal := by decide
  mxcsr_legal := by decide
  pc_width := by decide

/-- Where CR4.OSXSAVE is 0, an instruction that the mode has raises #UD (R121). -/
theorem exec_ud_of_osxsave_clear {i : Instr} {s : State} (hs : Supported s i) (hosxsave : s.osxsave = false) :
    exec i s = .fault .ud := by
  have hud : udFault s i = some .ud := by simp [udFault, hosxsave]
  rw [exec_of_supported hs, restore_fault_iff, restoreFault, faultConditions, hud]
  rfl

/-- The instruction that the word 0FAE28H is in real-address mode: `xrstor [bx+si]`. -/
def resetXrstor : Instr := .xrstor [] none (.regs16 .bxSi .none)

/-- The bytes placed at the pointer of the reset state are those of an XRSTOR. -/
theorem fetchByte_reset_withFetchWord :
    ∀ k < 3, fetchByte (State.reset.withFetchWord 24 0x0FAE28) k = (encode resetXrstor)[k]? := by
  decide

/-- Settles O8: the placed bytes run as an XRSTOR, and CR4.OSXSAVE is 0 after reset. -/
theorem firstXrstorAfterResetRaisesUd : Obligations.FirstXrstorAfterResetRaisesUd := by
  have hstep : step (State.reset.withFetchWord 24 0x0FAE28) =
      exec resetXrstor (State.reset.withFetchWord 24 0x0FAE28) :=
    encodedBytesAtThePointerRun _ _ rfl fetchByte_reset_withFetchWord
  exact hstep.trans (exec_ud_of_osxsave_clear trivial rfl)

end Sys2Proof.Machine
end

section
/-! Proofs. The XSAVE area (R41 to R48): the bits of its header, the packed offsets, the tag word, canonical form. -/

namespace Sys2Proof.Machine

/-! ## The header (R41, R46) -/

/-- Settles O23: the header's fields are little-endian reads at 512 and 520. -/
theorem headerBitsInMemory : Obligations.HeaderBitsInMemory :=
  fun _ _ => ⟨fun _ hb => areaRead_getLsbD hb, fun _ hb => areaRead_getLsbD hb,
    areaRead_getLsbD (show 63 < 8 * 8 by decide)⟩

/-! ## The packed offsets (R45, R95) -/

/-- With no component aligned, the running offset is 576 and the sizes of the components passed. -/
theorem runningOffset_eq_sum {p : Platform} {format : Word64} {n : Nat}
    (halign : ∀ k, 2 ≤ k → k < n + 2 → (p.ext k).align64 = false) :
    runningOffset p format n =
      576 + (((List.range' 2 n).filter (fun k => format.getLsbD k)).map (fun k => (p.ext k).size)).sum := by
  induction n with
  | zero => rfl
  | succ n ih =>
    have hn : alignFor p (n + 2) (runningOffset p format n) = runningOffset p format n :=
      if_neg (Bool.eq_false_iff.mp (halign (n + 2) (by omega) (by omega)))
    have hlast : List.range' 2 (n + 1) = List.range' 2 n ++ [n + 2] := by
      rw [List.range'_concat, Nat.one_mul, Nat.add_comm 2 n]
    rw [runningOffset, hn, ih fun k hlo hhi => halign k hlo (by omega), hlast, List.filter_append, List.map_append,
      List.sum_append]
    cases hbit : format.getLsbD (n + 2) with
    | false => simp [hbit]
    | true => simp [hbit, Nat.add_assoc]

/-- Settles O24: placing component i adds no rounding to the running offset before it. -/
theorem compactOffsetIsASumOfSizes : Obligations.CompactOffsetIsASumOfSizes := by
  intro p format i halign hlo
  rw [compactOffset, alignFor, if_neg (Bool.eq_false_iff.mp (halign i hlo (Nat.le_refl i)))]
  exact runningOffset_eq_sum fun k hk hki => halign k hk (by omega)

/-- In a compacted area without alignment a component lies behind those below it that XCOMP_BV names. -/
theorem componentOffset_compacted {p : Platform} {h : Header} {k : Nat} (hcomp : h.xcompBv.getLsbD 63 = true)
    (hlo : 2 ≤ k) (hhi : k ≤ 62) (halign : ∀ j, 2 ≤ j → j ≤ 62 → (p.ext j).align64 = false) :
    componentOffset p h k =
      576 + (((List.range' 2 (k - 2)).filter (fun j => h.xcompBv.getLsbD j)).map (fun j => (p.ext j).size)).sum := by
  have hformat : (List.range' 2 (k - 2)).filter (fun j => h.format.getLsbD j) =
      (List.range' 2 (k - 2)).filter (fun j => h.xcompBv.getLsbD j) := by
    refine List.filter_congr fun j hj => ?_
    obtain ⟨-, hj⟩ := List.mem_range'_1.mp hj
    rw [h.format_getLsbD, decide_eq_true (by omega), Bool.true_and]
  rw [componentOffset, Header.compacted, if_pos hcomp, ← hformat]
  exact compactOffsetIsASumOfSizes p h.format k (fun j hj hjk => halign j hj (by omega)) hlo

/-- Settles O35: the masks of the compacted form decide, and a component lies at its packed offset. -/
theorem compactedFormSetsTheComponents : Obligations.CompactedFormSetsTheComponents := by
  intro i s hs hc hcomp halign
  refine ⟨_, exec_of_completes hs hc, fun k hlo hhi => ⟨?_, ?_⟩⟩
  · rw [restoredWith_comp _ _ _ _ _ hlo hhi, newComp, Header.ite_masks _ _ (by omega), loadComponent,
      componentOffset_compacted hcomp hlo hhi halign]
    simp only [Header.loads_compacted hcomp, Bool.and_eq_true]
  · rw [restoredWith_xinuse, newXinuse_eq_loads _ _ (by omega), Header.loads_compacted hcomp]

/-! ## The tag word (R43) -/

/-- The exponent of a register value as a number. -/
theorem exponent_toNat (v : BitVec 80) : (v.extractLsb' 64 15).toNat = v.toNat / 2 ^ 64 % 2 ^ 15 := by
  rw [BitVec.extractLsb'_toNat, Nat.shiftRight_eq_div_pow]

/-- The significand of a register value as a number. -/
theorem significand_toNat (v : BitVec 80) : (v.extractLsb' 0 64).toNat = v.toNat % 2 ^ 64 := by
  rw [BitVec.extractLsb'_toNat, Nat.shiftRight_zero]

/-- The significand's leading bit, bit 63 of the value. -/
theorem leadingBit_eq_false_iff (v : BitVec 80) : v.getLsbD 63 = false ↔ v.toNat / 2 ^ 63 % 2 = 0 := by
  rw [BitVec.getLsbD, Nat.testBit_eq_decide_div_mod_eq, decide_eq_false_iff_not]
  omega

/-- The tag of a register value, by its number (R43). -/
theorem tagOf_toNat (v : BitVec 80) : (tagOf v).toNat =
    if v.toNat % 2 ^ 79 = 0 then 1
    else if v.toNat / 2 ^ 64 % 2 ^ 15 = 0 ∨ v.toNat / 2 ^ 64 % 2 ^ 15 = 0x7FFF ∨ v.toNat / 2 ^ 63 % 2 = 0 then 2
    else 0 := by
  have hzero : v.extractLsb' 64 15 = 0 ∧ v.extractLsb' 0 64 = 0 ↔ v.toNat % 2 ^ 79 = 0 := by
    have h0 (w : Nat) : (0 : BitVec w).toNat = 0 := BitVec.toNat_zero
    rw [BitVec.toNat_eq, BitVec.toNat_eq, exponent_toNat, significand_toNat, h0, h0]
    omega
  have hexp (e : BitVec 15) : v.extractLsb' 64 15 = e ↔ v.toNat / 2 ^ 64 % 2 ^ 15 = e.toNat := by
    rw [BitVec.toNat_eq, exponent_toNat]
  have hother := or_congr (hexp 0) (or_congr (hexp 0x7FFF) (leadingBit_eq_false_iff v))
  rw [tagOf, apply_ite BitVec.toNat, apply_ite BitVec.toNat]
  exact if_congr hzero rfl (if_congr hother rfl rfl)

/-- TOP as a number. -/
theorem topOf_toNat (fsw : Word16) : (topOf fsw).toNat = fsw.toNat / 2 ^ 11 % 8 := by
  rw [topOf, BitVec.extractLsb'_toNat, Nat.shiftRight_eq_div_pow]

/-- ST(k) is the physical register (k + TOP) mod 8. -/
theorem physical_sub_top {top : BitVec 3} {k p : Nat} (hk : k < 8) (hp : p = (k + top.toNat) % 8) :
    (BitVec.ofNat 3 p - top).toNat = k := by
  have := top.isLt
  rw [BitVec.toNat_sub, BitVec.toNat_ofNat]
  omega

/-- A bit of a field is the bit of its range. -/
theorem legacyField_bit_eq (s : State) (op : Operand) (r : ByteRange) {w b : Nat} (hb : b < w) :
    (legacyField s op r w).getLsbD b = (areaRead s op r.offset r.length).getLsbD b := by
  rw [legacyField, BitVec.getLsbD_setWidth, decide_eq_true hb, Bool.true_and]

/-- Settles O25: the digit of the tag word is the tag of ST(k), whose number is R43's. -/
theorem tagWordFromTheAbridgedTag : Obligations.TagWordFromTheAbridgedTag := by
  intro form s op k x p v e
  have hp : p < 8 := Nat.mod_lt _ (by decide)
  have hpn : (BitVec.ofNat 3 p).toNat = p := by simpa using hp
  have hk : (BitVec.ofNat 3 p - topOf x.fsw).toNat = k.val := physical_sub_top k.isLt (by rw [topOf_toNat])
  have hst : (x.st[(BitVec.ofNat 3 p - topOf x.fsw).toNat]?).getD 0 = x.st[k] := by simp [hk]
  have hftw : x.ftw = fullTagWord (legacyField s op s.platform.layout.ftw 8) (topOf x.fsw) x.st := loadX87_ftw form s op
  rw [hftw, fullTagWord_digit _ _ _ hp, fullTag, hst, hpn, legacyField_bit_eq s op _ hp]
  cases (areaRead s op s.platform.layout.ftw.offset s.platform.layout.ftw.length).getLsbD p with
  | false => rfl
  | true => exact tagOf_toNat _

/-! ## Canonical form (R48) -/

/-- The shifted number of a word, bit by bit. -/
theorem shiftRight_eq_iff {la : Word64} {n m : Nat} (hm : ∀ b, 64 ≤ b → m.testBit (b - n) = false) :
    la.toNat >>> n = m ↔ ∀ b, n ≤ b → b < 64 → la.getLsbD b = m.testBit (b - n) := by
  constructor
  · rintro rfl b hlo -
    rw [Nat.testBit_shiftRight, Nat.add_sub_cancel' hlo, BitVec.testBit_toNat]
  · intro hbits
    refine Nat.eq_of_testBit_eq fun j => ?_
    rw [Nat.testBit_shiftRight, BitVec.testBit_toNat]
    by_cases hj : n + j < 64
    · simpa using hbits (n + j) (by omega) hj
    · rw [BitVec.getLsbD_of_ge _ _ (by omega), ← hm (n + j) (by omega), Nat.add_sub_cancel_left]

/-- The bits of a word from `n` on are all 0 exactly when nothing is left of the shifted number. -/
theorem shiftRight_eq_zero_iff {la : Word64} {n : Nat} :
    la.toNat >>> n = 0 ↔ ∀ b, n ≤ b → b < 64 → la.getLsbD b = false := by
  simp only [shiftRight_eq_iff (m := 0) (fun _ _ => Nat.zero_testBit _), Nat.zero_testBit]

/-- The bits of a word from `n` on are all 1 exactly when the shifted number is the greatest there is. -/
theorem shiftRight_eq_ones_iff {la : Word64} {n : Nat} :
    la.toNat >>> n = 2 ^ (64 - n) - 1 ↔ ∀ b, n ≤ b → b < 64 → la.getLsbD b = true := by
  have hones (b : Nat) : (2 ^ (64 - n) - 1).testBit (b - n) = decide (b - n < 64 - n) := Nat.testBit_two_pow_sub_one _ _
  rw [shiftRight_eq_iff fun b hb => by rw [hones, decide_eq_false (by omega)]]
  refine forall_congr' fun b => forall_congr' fun hlo => forall_congr' fun hhi => ?_
  rw [hones, decide_eq_true (by omega)]

/-- Settles O26: the bits from VA_BITS - 1 on are all 0 or all 1, as bit 63 is. -/
theorem canonicalMeansTopBitsEqual : Obligations.CanonicalMeansTopBitsEqual := by
  intro vaBits la hlo hhi
  have hwidth : 65 - vaBits = 64 - (vaBits - 1) := by omega
  have h63 : vaBits - 1 ≤ 63 := by omega
  rw [canonical, Bool.or_eq_true, beq_iff_eq, beq_iff_eq, hwidth, shiftRight_eq_zero_iff, shiftRight_eq_ones_iff]
  cases htop : la.getLsbD 63 with
  | false => exact or_iff_left fun hones => Bool.noConfusion (htop.symm.trans (hones 63 h63 (by decide)))
  | true => exact or_iff_right fun hzeros => Bool.noConfusion (htop.symm.trans (hzeros 63 h63 (by decide)))

end Sys2Proof.Machine
end

section
/-! Proofs. What the exception of an execution says (R139, R140): every exception has one of six reasons, and once the
header has been read the conditions behind it decide. -/

namespace Sys2Proof.Machine

/-! ## Any exception -/

/-- All that a faulting execution can be: the mode has the instruction, and the fault is the first condition's. -/
theorem exec_fault_iff {i : Instr} {s : State} {f : Fault} :
    exec i s = .fault f ↔ Supported s i ∧ restoreFault s i = some f := by
  constructor
  · intro hfault
    have hs : Supported s i := by
      cases i with
      | xrstor ps rex m => trivial
      | xrstor64 ps q m =>
        by_contra hmode
        simp [exec_xrstor64_of_ne_long64 ps q m hmode] at hfault
    rw [exec_of_supported hs, restore_fault_iff] at hfault
    exact ⟨hs, hfault⟩
  · rintro ⟨hs, hfault⟩
    rwa [exec_of_supported hs, restore_fault_iff]

/-- A byte's page fault carries the code of its translation and its linear address (R131). -/
theorem bytePageFault_eq_some_iff {s : State} {op : Operand} {o : Nat} {f : Fault} :
    bytePageFault s op o = some f ↔
      ∃ code, translate s .read (linearAt s op o) = .pageFault code ∧ f = .pf code (linearAt s op o) := by
  unfold bytePageFault
  cases translate s .read (linearAt s op o) <;> simp [eq_comm]

/-- In real-address mode nothing page-faults (R139). -/
theorem translate_real {s : State} (hmode : s.mode = .real) (kind : AccessKind) (la : Word64) :
    translate s kind la = .physical la.toNat := by
  simp only [translate, hmode]

/-- The exception of a misaligned operand is #AC(0) or the mode's #GP. -/
theorem misalignedFault_cases (s : State) (op : Operand) :
    misalignedFault s op = .ac 0 ∨ misalignedFault s op = modeGp s := by
  rw [misalignedFault_eq]
  split_ifs <;> simp

/-- Why an execution raises a fault: #UD, #NM or #AC, the mode's #GP, or a byte of the footprint that is out of reach or
page-faults (R120 to R138). -/
inductive RaisedFor (s : State) (i : Instr) : Fault → Prop where
  | ud : RaisedFor s i .ud
  | nm : RaisedFor s i .nm
  | ac : RaisedFor s i (.ac 0)
  | gp : RaisedFor s i (modeGp s)
  | reach (o : Nat) : InFootprint s (headerOf s i) o → byteAddressable s (operandOf s i) o = false →
      RaisedFor s i (modeReach s i)
  | page (o : Nat) (code : ErrorCode) : InFootprint s (headerOf s i) o →
      translate s .read (linearAt s (operandOf s i) o) = .pageFault code →
      RaisedFor s i (.pf code (linearAt s (operandOf s i) o))

/-- The faults of one image have their reason in one of its bytes. -/
theorem RaisedFor.of_image {s : State} {i : Instr} {image : List Nat} {f : Fault}
    (himage : ∀ o ∈ image, InFootprint s (headerOf s i) o)
    (hf : addressFault s (operandOf s i) image = some f ∨ pageFault s (operandOf s i) image = some f) :
    RaisedFor s i f := by
  rcases hf with haddress | hpage
  · obtain ⟨rfl, o, ho, hreach⟩ := addressFault_eq_some haddress
    rw [addressException_operandOf]
    exact .reach o (himage o ho) hreach
  · obtain ⟨o, ho, hbyte⟩ := pageFault_eq_some hpage
    obtain ⟨code, htranslate, rfl⟩ := bytePageFault_eq_some_iff.mp hbyte
    exact .page o code (himage o ho) htranslate

/-- Every exception of an execution has its reason, condition by condition in the list of R140. -/
theorem raisedFor_of_exec_fault {s : State} {i : Instr} {f : Fault} (hfault : exec i s = .fault f) :
    RaisedFor s i f := by
  have hmem := firstFault_mem (exec_fault_iff.mp hfault).2
  have hheader : ∀ o ∈ headerImage, InFootprint s (headerOf s i) o := fun o ho => mem_images_iff.mp (.inl ho)
  simp only [faultConditions, imageFaults, List.mem_append, List.mem_cons, List.not_mem_nil, or_false,
    List.mem_flatMap] at hmem
  rcases hmem with ((hud | hnm | haddress | halign | hpage | hcontent) | ⟨image, himage, hf⟩) | hmxcsr
  · obtain ⟨-, hf⟩ := Option.some_eq_ite_none_right.mp hud
    exact Option.some.inj hf ▸ .ud
  · obtain ⟨-, hf⟩ := Option.some_eq_ite_none_right.mp hnm
    exact Option.some.inj hf ▸ .nm
  · exact .of_image hheader (.inl haddress.symm)
  · obtain ⟨-, hf⟩ := Option.some_eq_ite_none_left.mp halign
    rcases misalignedFault_cases s (operandOf s i) with hac | hgp
    · exact Option.some.inj hf ▸ hac ▸ .ac
    · exact Option.some.inj hf ▸ hgp ▸ .gp
  · exact .of_image hheader (.inr hpage.symm)
  · obtain ⟨-, hf⟩ := Option.some_eq_ite_none_right.mp hcontent
    exact Option.some.inj hf ▸ gpFault_eq_modeGp s ▸ .gp
  · exact .of_image (fun o ho => mem_images_iff.mp (.inr ⟨image, himage, ho⟩)) (hf.imp Eq.symm Eq.symm)
  · obtain ⟨-, hf⟩ := Option.some_eq_ite_none_right.mp hmxcsr
    exact Option.some.inj hf ▸ gpFault_eq_modeGp s ▸ .gp

/-- Settles O50: among the reasons only a byte out of reach gives #SS, and that through SS outside real-address mode. -/
theorem stackFaultOnlyThroughSs : Obligations.StackFaultOnlyThroughSs := by
  intro i s code hfault
  have hraised := raisedFor_of_exec_fault hfault
  generalize hf : Fault.ss code = f at hraised
  cases hraised with
  | ud | nm | ac | gp | page => simp [modeGp] at hf
  | reach o ho hreach =>
    unfold modeReach at hf
    split_ifs at hf with hmode hseg
    exact ⟨Fault.ss.inj hf, hmode, hseg, o, ho, hreach⟩

/-- #PF is never raised in real-address mode, and its code and address are those of a byte that is read. -/
theorem exec_pf {i : Instr} {s : State} {code : ErrorCode} {la : Word64} (hfault : exec i s = .fault (.pf code la)) :
    s.mode ≠ .real ∧ ∃ o, InFootprint s (headerOf s i) o ∧ la = linearAt s (operandOf s i) o ∧
      translate s .read la = .pageFault code := by
  have hraised := raisedFor_of_exec_fault hfault
  generalize hf : Fault.pf code la = f at hraised
  cases hraised with
  | ud | nm | ac | gp => simp [modeGp] at hf
  | reach o ho hreach =>
    unfold modeReach at hf
    split_ifs at hf
  | page o code' ho htranslate =>
    obtain ⟨rfl, rfl⟩ := Fault.pf.inj hf
    refine ⟨fun hmode => ?_, o, ho, rfl, htranslate⟩
    simp [translate_real hmode] at htranslate

/-! ## The exceptions of the header and the images, in their order (R140) -/

section HeaderRead

variable {s : State} {i : Instr}

/-- With an aligned header in reach, steps 1 to 4 of R140 pass: a page fault of the header is next. -/
theorem restoreFault_of_header_in_reach (hud : NoUd s i) (hts : s.cr0.getLsbD 3 = false)
    (haddr : ∀ o, 512 ≤ o → o < 576 → byteAddressable s (operandOf s i) o = true)
    (haligned : (areaBase s (operandOf s i)).toNat % 64 = 0) :
    restoreFault s i = firstFault (pageFault s (operandOf s i) headerImage :: headerFault s (headerOf s i) ::
      (imageFaults s (operandOf s i) (headerOf s i) ++ [mxcsrFault s (operandOf s i) (headerOf s i)])) := by
  have hud' : udFault s i = none := udFault_eq_none_iff.mpr hud
  have hnm : nmFault s = none := nmFault_eq_none_iff.mpr hts
  have haddress : addressFault s (operandOf s i) headerImage = none := by
    simpa only [addressFault_eq_none_iff, headerImage, headerOffset, mem_span, and_imp] using haddr
  have halign : alignmentFault s (operandOf s i) = none := alignmentFault_eq_none_iff.mpr haligned
  rw [restoreFault, faultConditions, hud', hnm, haddress, halign]
  rfl

/-- Once the header has been accepted, the images decide, and after them the MXCSR image's content. -/
theorem restoreFault_of_headerOk (hread : HeaderRead s i) (hok : HeaderOk s i) :
    restoreFault s i = firstFault
      (imageFaults s (operandOf s i) (headerOf s i) ++ [mxcsrFault s (operandOf s i) (headerOf s i)]) := by
  have hpage : pageFault s (operandOf s i) headerImage = none := (header_readable_iff.mpr hread.readable).2
  have hcontent : headerFault s (headerOf s i) = none := headerFault_eq_none_iff.mpr hok
  rw [restoreFault_of_header_in_reach hread.no_ud hread.ts_clear (fun o hlo hhi => (hread.readable o hlo hhi).1)
    hread.aligned, hpage, hcontent, firstFault_cons_none, firstFault_cons_none]

/-- With every image readable, only the content of the MXCSR image is left to decide. -/
theorem restoreFault_of_readable (hread : HeaderRead s i) (hok : HeaderOk s i)
    (hreadable : ∀ o, InFootprint s (headerOf s i) o → Readable s (operandOf s i) o) :
    restoreFault s i = mxcsrFault s (operandOf s i) (headerOf s i) := by
  have himages : firstFault (imageFaults s (operandOf s i) (headerOf s i)) = none :=
    firstFault_eq_none_iff.mpr (imageFaults_none_iff.mpr (footprint_readable_iff.mp hreadable).2)
  rw [restoreFault_of_headerOk hread hok, firstFault_append, himages]
  cases mxcsrFault s (operandOf s i) (headerOf s i) <;> rfl

/-- An image that is read decides when all images before it are readable: first its address fault, then its page
fault. -/
theorem restoreFault_of_image {image : ImageName} (hread : HeaderRead s i) (hok : HeaderOk s i)
    (hmem : image.IsRead s (headerOf s i))
    (hbefore : ∀ before : ImageName, before.IsRead s (headerOf s i) → before.rank < image.rank →
      ∀ o, before.Has s (headerOf s i) o → Readable s (operandOf s i) o) :
    ∃ later, restoreFault s i = firstFault (addressFault s (operandOf s i) (image.offsets s (headerOf s i)) ::
      pageFault s (operandOf s i) (image.offsets s (headerOf s i)) :: later) := by
  obtain ⟨pre, post, hsplit, hpre⟩ := imagesToRead_split hmem
  have hpass : firstFault (pre.flatMap fun im =>
      [addressFault s (operandOf s i) im, pageFault s (operandOf s i) im]) = none := by
    refine firstFault_eq_none_iff.mpr fun x hx => ?_
    obtain ⟨im, him, hx⟩ := List.mem_flatMap.mp hx
    obtain ⟨before, hbread, hrank, rfl⟩ := hpre im him
    have hbytes : ∀ o ∈ before.offsets s (headerOf s i), Readable s (operandOf s i) o :=
      fun o ho => hbefore before hbread hrank o (ImageName.mem_offsets.mp ho)
    have haddress := addressFault_eq_none_iff.mpr fun o ho => (hbytes o ho).1
    have hpage := pageFault_eq_none_iff.mpr fun o ho => bytePageFault_eq_none_iff.mpr (hbytes o ho).2
    simpa [haddress, hpage] using hx
  rw [restoreFault_of_headerOk hread hok, imageFaults, hsplit, List.flatMap_append, List.append_assoc,
    firstFault_append, hpass, List.flatMap_cons]
  exact ⟨_, rfl⟩

end HeaderRead

/-- An image one of whose bytes page-faults has a page fault, with the code and the address of such a byte. -/
theorem pageFault_of_byte {s : State} {op : Operand} {image : List Nat} {o : Nat} {code : ErrorCode} (ho : o ∈ image)
    (htranslate : translate s .read (linearAt s op o) = .pageFault code) :
    ∃ o' ∈ image, ∃ code', translate s .read (linearAt s op o') = .pageFault code' ∧
      pageFault s op image = some (.pf code' (linearAt s op o')) := by
  have hbyte : bytePageFault s op o = some (.pf code (linearAt s op o)) :=
    bytePageFault_eq_some_iff.mpr ⟨code, htranslate, rfl⟩
  have hne : pageFault s op image ≠ none := fun hnone => by
    simp [pageFault_eq_none_iff.mp hnone o ho] at hbyte
  obtain ⟨f, hf⟩ := Option.ne_none_iff_exists'.mp hne
  obtain ⟨o', ho', hbyte'⟩ := pageFault_eq_some hf
  obtain ⟨code', htranslate', rfl⟩ := bytePageFault_eq_some_iff.mp hbyte'
  exact ⟨o', ho', code', htranslate', hf⟩

/-- Settles O52: a #PF has its reason in a byte that is read, and behind an aligned header in reach the header's page
fault is the first condition. -/
theorem pageFaultNamesAFaultingByte : Obligations.PageFaultNamesAFaultingByte := by
  refine ⟨fun i s code la hfault => exec_pf hfault, fun i s hs hud hts haddr haligned hpf => ?_⟩
  obtain ⟨o, hlo, hhi, code, htranslate⟩ := hpf
  have ho : o ∈ headerImage := mem_span.mpr ⟨hlo, hhi⟩
  obtain ⟨o', ho', code', -, hpage⟩ := pageFault_of_byte ho htranslate
  obtain ⟨hlo', hhi'⟩ := mem_span.mp ho'
  refine ⟨o', code', hlo', hhi', exec_fault_iff.mpr ⟨hs, ?_⟩⟩
  rw [restoreFault_of_header_in_reach hud hts haddr haligned, hpage, firstFault_cons_some]

/-- Settles O59: behind readable images the image's address fault is the first condition, and its page fault the
next. -/
theorem imageFaultsInTheOrderOfTheImages : Obligations.ImageFaultsInTheOrderOfTheImages := by
  intro i s image hs hread hok hmem hbefore
  obtain ⟨later, hfirst⟩ := restoreFault_of_image hread hok hmem hbefore
  refine ⟨fun hout => exec_fault_iff.mpr ⟨hs, ?_⟩, fun hreach hpf => ?_⟩
  · obtain ⟨o, ho, hout⟩ := hout
    have hne : addressFault s (operandOf s i) (image.offsets s (headerOf s i)) ≠ none := fun hnone => by
      have haddr := addressFault_eq_none_iff.mp hnone o (ImageName.mem_offsets.mpr ho)
      simp [byteAddressable_eq_false_iff.mpr hout] at haddr
    obtain ⟨f, hf⟩ := Option.ne_none_iff_exists'.mp hne
    rw [hfirst, hf, firstFault_cons_some, (addressFault_eq_some hf).1, addressException_operandOf]
  · have haddress : addressFault s (operandOf s i) (image.offsets s (headerOf s i)) = none := by
      refine addressFault_eq_none_iff.mpr fun o ho => Bool.of_not_eq_false fun hfalse => ?_
      exact hreach o (ImageName.mem_offsets.mp ho) (byteAddressable_eq_false_iff.mp hfalse)
    obtain ⟨o, code, ho, htranslate⟩ := hpf
    obtain ⟨o', ho', code', htranslate', hpage⟩ := pageFault_of_byte (ImageName.mem_offsets.mpr ho) htranslate
    refine ⟨o', code', ImageName.mem_offsets.mp ho', htranslate', exec_fault_iff.mpr ⟨hs, ?_⟩⟩
    rw [hfirst, haddress, firstFault_cons_none, hpage, firstFault_cons_some]

/-! ## The MXCSR image (R88, R138) -/

/-- When MXCSR is loaded, in the terms of the header's bits (R88, R94). -/
theorem loadsMxcsr_eq (h : Header) (rfbm : Word64) : h.loadsMxcsr rfbm =
    if h.xcompBv.getLsbD 63 = false then rfbm.getLsbD 1 || rfbm.getLsbD 2
    else rfbm.getLsbD 1 && h.xcompBv.getLsbD 1 && h.xstateBv.getLsbD 1 := by
  unfold Header.loadsMxcsr
  rw [h.toBeRestored_getLsbD _ (by omega)]
  cases hcomp : h.xcompBv.getLsbD 63 with
  | true =>
    simp only [Header.compacted, hcomp, Header.loads_compacted hcomp, Bool.and_assoc, if_true, Bool.true_eq_false,
      if_false]
  | false => simp only [Header.compacted, hcomp, Bool.false_eq_true, if_true, if_false]

/-- The content of the MXCSR image faults exactly where it is loaded and sets a reserved bit. -/
theorem mxcsrFault_eq (s : State) (op : Operand) (h : Header) :
    mxcsrFault s op h = if h.loadsMxcsr s.rfbm = true ∧ loadMxcsr s op &&& ~~~s.platform.mxcsrMask ≠ 0
      then some (modeGp s) else none := by
  simp [mxcsrFault, mxcsrLegal, gpFault_eq_modeGp]

/-- With every image readable, an execution that loads an MXCSR image with a reserved bit faults, and any other
completes. -/
theorem exec_of_readable {i : Instr} {s : State} (hs : Supported s i) (hread : HeaderRead s i) (hok : HeaderOk s i)
    (hreadable : ∀ o, InFootprint s (headerOf s i) o → Readable s (operandOf s i) o) :
    if (headerOf s i).loadsMxcsr s.rfbm = true ∧ loadMxcsr s (operandOf s i) &&& ~~~s.platform.mxcsrMask ≠ 0
      then exec i s = .fault (modeGp s) else ∃ t, exec i s = .next t := by
  have hlast := restoreFault_of_readable hread hok hreadable
  rw [mxcsrFault_eq] at hlast
  split
  next hbad => exact exec_fault_iff.mpr ⟨hs, hlast.trans (if_pos hbad)⟩
  next hgood => exact ⟨_, exec_next_iff.mpr ⟨hs, hlast.trans (if_neg hgood), rfl⟩⟩

/-- Settles O55: with every image readable the content of the MXCSR image is the one condition left. -/
theorem mxcsrReservedBitFaults : Obligations.MxcsrReservedBitFaults := by
  intro i s hs hread hok hreadable
  rw [← loadsMxcsr_eq]
  exact exec_of_readable hs hread hok hreadable

/-- Settles O30: the standard form loads MXCSR by RFBM alone, and its image is the last condition. -/
theorem standardFormLoadsMxcsr : Obligations.StandardFormLoadsMxcsr := by
  rintro i s _ hs hstd rfl
  have hloads : (headerOf s i).loadsMxcsr s.rfbm = true ↔ s.rfbm.getLsbD 1 = true ∨ s.rfbm.getLsbD 2 = true := by
    rw [loadsMxcsr_eq, if_pos hstd, Bool.or_eq_true]
  refine ⟨fun hc => ⟨_, exec_of_completes hs hc, ?_⟩, fun hreq hread hheader hreadable hbad => ?_⟩
  · simp only [restoredWith_mxcsr, newMxcsr, hloads, Header.compacted, hstd, Bool.false_and, Bool.false_eq_true,
      if_false]
    rfl
  · have hok : HeaderOk s i := ⟨fun _ => hheader, fun hcomp => Bool.noConfusion (hstd.symm.trans hcomp)⟩
    have hexec := exec_of_readable hs hread hok hreadable
    rwa [if_pos ⟨hloads.mpr hreq, hbad⟩] at hexec

end Sys2Proof.Machine
end

section
/-! Proofs. The bytes outside the footprint have no influence (R49). -/

namespace Sys2Proof.Machine

/-! ## Images of two states whose bytes agree -/

/-- A read of bytes on which two states agree. -/
theorem areaBytes_congr {s t : State} {op : Operand} {o n : Nat}
    (hbytes : ∀ x, o ≤ x → x < o + n → areaByte t op x = areaByte s op x) : areaBytes t op o n = areaBytes s op o n :=
  List.map_congr_left fun k hk => hbytes (o + k) (Nat.le_add_right o k) (by have := List.mem_range.mp hk; omega)

/-- The header of two states that agree on its 64 bytes. -/
theorem readHeader_congr {s t : State} {op : Operand}
    (hbytes : ∀ o, 512 ≤ o → o < 576 → areaByte t op o = areaByte s op o) : readHeader t op = readHeader s op := by
  have hpart (o n : Nat) (hlo : 512 ≤ o) (hhi : o + n ≤ 576) : areaBytes t op o n = areaBytes s op o n :=
    areaBytes_congr fun x hx hxn => hbytes x (by omega) (by omega)
  simp only [readHeader, areaRead, headerOffset, hpart 512 8 (by decide) (by decide),
    hpart (512 + 8) 8 (by decide) (by decide), hpart (512 + 16) 48 (by decide) (by decide)]

/-- Every field that either form loads lies in a range of the x87 image. -/
theorem loadX87_congr {s t : State} {op : Operand} (form : Form) (hplatform : t.platform = s.platform)
    (hbytes : ∀ r ∈ s.platform.layout.x87, ∀ o, InRange r o → areaByte t op o = areaByte s op o) :
    loadX87 form t op = loadX87 form s op := by
  have hfield (r : ByteRange) (hr : r ∈ s.platform.layout.x87) (w : Nat) :
      legacyField t op r w = legacyField s op r w := legacyField_congr (hbytes r hr)
  have hst : loadSt t op = loadSt s op := by
    have hmem (k : Fin 8) : s.platform.layout.st[k] ∈ s.platform.layout.x87 := by simp [LegacyLayout.x87]
    simp only [loadSt, hplatform, hfield _ (hmem _)]
  simp only [LegacyLayout.x87, List.forall_mem_append, List.forall_mem_cons] at hfield
  obtain ⟨⟨⟨hfcw, hfsw, hftw, hfop, hfip, hfcs, hfdp, hfds, hfip64, hfdp64, -⟩, -⟩, -⟩ := hfield
  simp only [loadX87, hplatform, hst, hfcw, hfsw, hftw, hfop, hfip, hfcs, hfdp, hfds, hfip64, hfdp64]

/-! ## Another memory that agrees on the footprint -/

section OtherMemory

variable {s : State} {i : Instr} {m : Memory}
  (hsame : ∀ o, InFootprint s (headerOf s i) o →
    areaByte { s with mem := m } (operandOf s i) o = areaByte s (operandOf s i) o)

include hsame

/-- The header is in the footprint. -/
theorem headerOf_mem : headerOf { s with mem := m } i = headerOf s i :=
  readHeader_congr fun o hlo hhi => hsame o (.inl ⟨hlo, hhi⟩)

/-- A field of an image that is read. -/
theorem legacyField_mem {image : ImageName} {r : ByteRange} (w : Nat) (hread : image.IsRead s (headerOf s i))
    (hrange : ∀ o, InRange r o → image.Has s (headerOf s i) o) :
    legacyField { s with mem := m } (operandOf s i) r w = legacyField s (operandOf s i) r w :=
  legacyField_congr fun o ho => hsame o (.inr ⟨image, hread, hrange o ho⟩)

/-- The MXCSR image is the same where MXCSR is loaded. -/
theorem loadMxcsr_mem (hloads : (headerOf s i).loadsMxcsr s.rfbm = true) :
    loadMxcsr { s with mem := m } (operandOf s i) = loadMxcsr s (operandOf s i) :=
  legacyField_mem hsame (image := .mxcsr) 32 hloads fun _ ho => ho

/-- Each field written takes only bytes of the images read. -/
theorem newX87_mem (form : Form) :
    newX87 form { s with mem := m } (operandOf s i) (headerOf s i) = newX87 form s (operandOf s i) (headerOf s i) :=
  ite_congr rfl
    (fun hread => loadX87_congr form rfl fun r hr o ho => hsame o (.inr ⟨.x87, hread, r, hr, ho⟩)) (fun _ => rfl)

theorem newMxcsr_mem :
    newMxcsr { s with mem := m } (operandOf s i) (headerOf s i) = newMxcsr s (operandOf s i) (headerOf s i) :=
  ite_congr rfl (fun hloads => loadMxcsr_mem hsame hloads) (fun _ => rfl)

theorem newXmmReg_mem (j : Fin 16) (old : BitVec 128) :
    newXmmReg { s with mem := m } (operandOf s i) (headerOf s i) j.val old =
      newXmmReg s (operandOf s i) (headerOf s i) j.val old := by
  refine ite_congr rfl (fun _ => rfl) fun hn => ite_congr rfl (fun hread => ?_) (fun _ => rfl)
  rw [loadXmm_eq, loadXmm_eq]
  exact legacyField_mem hsame (image := .xmm) 128 hread fun o ho => ⟨j, Nat.lt_of_not_le hn, ho⟩

theorem newComp_mem {k : Nat} (hlo : 2 ≤ k) (hhi : k ≤ 62) (old : List Byte) :
    newComp { s with mem := m } (operandOf s i) (headerOf s i) k old =
      newComp s (operandOf s i) (headerOf s i) k old :=
  ite_congr rfl
    (fun hread => areaBytes_congr fun o ho hon => hsame o (.inr ⟨.component k, ⟨hlo, hhi, hread⟩, ho, hon⟩))
    (fun _ => rfl)

/-- No condition reads a byte outside the footprint. -/
theorem restoreFault_mem : restoreFault { s with mem := m } i = restoreFault s i := by
  have hheader : readHeader { s with mem := m } (operandOf s i) = headerOf s i := headerOf_mem hsame
  have hmxcsr : mxcsrFault { s with mem := m } (operandOf s i) (headerOf s i) =
      mxcsrFault s (operandOf s i) (headerOf s i) := by
    rw [mxcsrFault_eq, mxcsrFault_eq]
    refine if_congr (and_congr_right fun hloads => ?_) rfl rfl
    rw [loadMxcsr_mem hsame hloads]
  have hop : operandOf { s with mem := m } i = operandOf s i := rfl
  unfold restoreFault faultConditions
  rw [hop, hheader, hmxcsr]
  rfl

/-- The restored state takes no byte outside the footprint. -/
theorem restored_mem (form : Form) :
    restored form { s with mem := m } i = { restored form s i with mem := m } := by
  have hheader : readHeader { s with mem := m } (operandOf s i) = headerOf s i := headerOf_mem hsame
  have hxmm : newXmm { s with mem := m } (operandOf s i) (headerOf s i) = newXmm s (operandOf s i) (headerOf s i) :=
    congrArg Vector.ofFn (funext fun j => newXmmReg_mem hsame j _)
  have hcomps : newComps { s with mem := m } (operandOf s i) (headerOf s i) =
      newComps s (operandOf s i) (headerOf s i) :=
    congrArg Vector.ofFn (funext fun k => newComp_mem hsame (by omega) (by omega) _)
  have hop : operandOf { s with mem := m } i = operandOf s i := rfl
  rw [restored, hop, hheader, restoredWith, newX87_mem hsame, newMxcsr_mem hsame, hxmm, hcomps]
  rfl

/-- `restore` with another memory: the same outcome, but for the memory. -/
theorem restore_mem (form : Form) :
    restore form { s with mem := m } i =
      match restore form s i with
      | .next t => .next { t with mem := m }
      | .fault f => .fault f
      | .refused r => .refused r := by
  unfold restore
  rw [restoreFault_mem hsame, restored_mem hsame]
  cases restoreFault s i <;> rfl

end OtherMemory

/-- Settles O43: memory enters an execution through the bytes of the header and of the images it reads. -/
theorem onlyTheFootprintIsRead : Obligations.OnlyTheFootprintIsRead := by
  intro i s m hsame
  cases i with
  | xrstor ps rex mem => exact restore_mem hsame .xrstor
  | xrstor64 ps q mem =>
    by_cases hmode : s.mode = .long64
    · rw [exec_xrstor64 ps q mem hmode, exec_xrstor64 ps q mem (s := { s with mem := m }) hmode]
      exact restore_mem hsame .xrstor64
    · rw [exec_xrstor64_of_ne_long64 ps q mem hmode]
      exact exec_xrstor64_of_ne_long64 ps q mem hmode

end Sys2Proof.Machine
end

section
/-! Proofs. What a completed execution shows of its header (R134, R161), and running it again (R104). -/

namespace Sys2Proof.Machine

/-- Settles O3: a completed execution met no condition, and each requirement is a condition's negation. -/
theorem completionNeedsEveryRequirement : Obligations.CompletionNeedsEveryRequirement := by
  intro i s t hnext
  obtain ⟨-, hnone, -⟩ := exec_next_iff.mp hnext
  exact restoreFault_eq_none_iff.mp hnone

/-- An accepted standard-form header has XCOMP_BV 0: its bytes are header bytes 15:8 (R134). -/
theorem xcompBv_eq_zero_of_standardHeaderOk {s : State} {op : Operand}
    (hok : StandardHeaderOk s op (readHeader s op)) : (readHeader s op).xcompBv = 0 :=
  areaRead_eq_zero_iff.mpr fun o hlo hhi => hok.2 o hlo (Nat.lt_of_lt_of_le hhi (by decide))

/-- Settles O37: the COMPMASK recorded is XCOMP_BV, which an accepted standard-form header has 0. -/
theorem standardFormStoresCompmaskZero : Obligations.StandardFormStoresCompmaskZero := by
  intro i s t hnext hstd
  obtain ⟨-, hnone, rfl⟩ := exec_next_iff.mp hnext
  exact xcompBv_eq_zero_of_standardHeaderOk ((restoreFault_eq_none_iff.mp hnone).header_standard hstd)

/-! ## Running it again (R104) -/

/-- The state an execution leaves, with the instruction pointer put back. -/
def rewound (form : Form) (s : State) (len : Nat) (op : Operand) (h : Header) : State :=
  { restoredWith form s len op h with pc := s.pc }

/-- A value chosen by two tests: choosing again, from what was chosen, gives the same. -/
theorem ite_ite_again {α : Type} (c d : Prop) [Decidable c] [Decidable d] (loaded init old : α) :
    (if c then loaded else if d then init else if c then loaded else if d then init else old) =
      if c then loaded else if d then init else old := by
  split_ifs <;> rfl

/-- An XMM register loaded or initialized again. -/
theorem newXmmReg_again (s : State) (op : Operand) (h : Header) (j : Nat) (old : BitVec 128) :
    newXmmReg s op h j (newXmmReg s op h j old) = newXmmReg s op h j old := by
  unfold newXmmReg
  split_ifs <;> rfl

section Again

variable (form : Form) (s : State) (len : Nat) (op : Operand) (h : Header)

/-- The MXCSR image is memory's, which an execution does not write. -/
theorem loadMxcsr_rewound (op' : Operand) : loadMxcsr (rewound form s len op h) op' = loadMxcsr s op' :=
  legacyField_congr fun _ _ => rfl

/-- No condition reads a field that an execution writes, but for the instruction pointer. -/
theorem restoreFault_rewound (i : Instr) : restoreFault (rewound form s len op h) i = restoreFault s i := by
  have hheader (op' : Operand) : readHeader (rewound form s len op h) op' = readHeader s op' :=
    readHeader_congr fun _ _ _ => rfl
  have hmxcsr (op' : Operand) (h' : Header) : mxcsrFault (rewound form s len op h) op' h' = mxcsrFault s op' h' := by
    rw [mxcsrFault, loadMxcsr_rewound]
    rfl
  have hop : operandOf (rewound form s len op h) i = operandOf s i := rfl
  unfold restoreFault faultConditions
  rw [hop, hheader, hmxcsr]
  rfl

/-- Each field written is chosen again as it was. -/
theorem newX87_rewound : newX87 form (rewound form s len op h) op h = newX87 form s op h := by
  have hload : loadX87 form (rewound form s len op h) op = loadX87 form s op :=
    loadX87_congr form rfl fun _ _ _ _ => rfl
  rw [newX87, hload]
  exact ite_ite_again _ _ _ _ _

theorem newMxcsr_rewound : newMxcsr (rewound form s len op h) op h = newMxcsr s op h := by
  rw [newMxcsr, loadMxcsr_rewound]
  exact ite_ite_again _ _ _ _ _

theorem newXmm_rewound : newXmm (rewound form s len op h) op h = newXmm s op h := by
  have hreg (j : Fin 16) : newXmmReg (rewound form s len op h) op h j.val (newXmm s op h)[j] = (newXmm s op h)[j] := by
    have hj : (newXmm s op h)[j] = newXmmReg s op h j.val s.xmm[j] := by simp [newXmm]
    rw [hj]
    exact newXmmReg_again s op h j.val s.xmm[j]
  refine Vector.ext fun j hj => ?_
  exact (Vector.getElem_ofFn hj).trans (hreg ⟨j, hj⟩)

theorem newComps_rewound : newComps (rewound form s len op h) op h = newComps s op h := by
  have hcomp (k : Fin 61) :
      newComp (rewound form s len op h) op h (k.val + 2) (newComps s op h)[k] = (newComps s op h)[k] := by
    have hk : (newComps s op h)[k] = newComp s op h (k.val + 2) s.comps[k] := by simp [newComps]
    rw [hk]
    exact ite_ite_again _ _ _ _ _
  refine Vector.ext fun k hk => ?_
  exact (Vector.getElem_ofFn hk).trans (hcomp ⟨k, hk⟩)

theorem newXinuse_rewound : newXinuse (rewound form s len op h) h = newXinuse s h := by
  refine BitVec.eq_of_getLsbD_eq fun k hk => ?_
  have hk' : (rewound form s len op h).xinuse.getLsbD k = (newXinuse s h).getLsbD k := rfl
  rw [newXinuse_eq_masks _ _ hk, hk', newXinuse_eq_masks _ _ hk]
  exact ite_ite_again _ _ _ _ _

/-- The restored state of the rewound one is the same. -/
theorem restoredWith_rewound : restoredWith form (rewound form s len op h) len op h = restoredWith form s len op h := by
  conv_lhs => rw [restoredWith]
  rw [newX87_rewound, newMxcsr_rewound, newXmm_rewound, newComps_rewound, newXinuse_rewound]
  rfl

end Again

/-- Settles O42: the conditions are the same, and each field is chosen again as it was. -/
theorem restoringTwiceIsRestoringOnce : Obligations.RestoringTwiceIsRestoringOnce := by
  intro i s t hnext
  obtain ⟨hs, hnone, rfl⟩ := exec_next_iff.mp hnext
  refine exec_next_iff.mpr ⟨?_, ?_, ?_⟩
  · cases i <;> exact hs
  · exact (restoreFault_rewound (formOf i) s i.length (operandOf s i) (headerOf s i) i).trans hnone
  · exact (restoredWith_rewound (formOf i) s i.length (operandOf s i) (headerOf s i)).symm

end Sys2Proof.Machine
end

section
/-! Proofs. The two forms of the instruction in 64-bit mode (R81, D8). -/

namespace Sys2Proof.Machine

/-- The x87 state that XRSTOR64 loads: XRSTOR's but for the pointers (R81). -/
theorem loadX87_xrstor64 (s : State) (op : Operand) : loadX87 .xrstor64 s op =
    { loadX87 .xrstor s op with
      fip := legacyField s op s.platform.layout.fip64 64, fcs := 0
      fdp := legacyField s op s.platform.layout.fdp64 64, fds := 0 } := rfl

/-- The state that XRSTOR64 leaves: XRSTOR's but for the pointers of a loaded x87 state. -/
theorem restoredWith_xrstor64 (s : State) (len : Nat) (op : Operand) (h : Header) :
    restoredWith .xrstor64 s len op h =
      { restoredWith .xrstor s len op h with
        x87 :=
          if (h.toBeRestored s.rfbm).getLsbD 0 then
            { (restoredWith .xrstor s len op h).x87 with
              fip := legacyField s op s.platform.layout.fip64 64, fcs := 0
              fdp := legacyField s op s.platform.layout.fdp64 64, fds := 0 }
          else (restoredWith .xrstor s len op h).x87 } := by
  have hx87 : newX87 .xrstor64 s op h =
      if (h.toBeRestored s.rfbm).getLsbD 0 then
        { newX87 .xrstor s op h with
          fip := legacyField s op s.platform.layout.fip64 64, fcs := 0
          fdp := legacyField s op s.platform.layout.fdp64 64, fds := 0 }
      else newX87 .xrstor s op h := by
    unfold newX87
    split
    · exact loadX87_xrstor64 s op
    · rfl
  unfold restoredWith
  rw [hx87]

/-- Settles O46: both are the common procedure with one operand, one header and one length. -/
theorem theTwoFormsDifferInTheX87Pointers : Obligations.TheTwoFormsDifferInTheX87Pointers := by
  intro ps q m s hmode
  have hfault : restoreFault s (.xrstor64 ps q m) = restoreFault s (.xrstor ps (some q) m) := rfl
  rw [exec_xrstor64 ps q m hmode, exec_xrstor, restore, restore, hfault]
  cases restoreFault s (.xrstor ps (some q) m) with
  | some f => rfl
  | none => exact congrArg Host.Outcome.next (restoredWith_xrstor64 s _ _ _)

end Sys2Proof.Machine
end

section
/-! Proofs. What decodes is the encoding of what it decodes to (R60 to R73): the converse of reading back, in the order
of the encoding. -/

namespace Sys2Proof

/-- Settles O9, by reading back the prefixes, the opcode and the operand in turn. -/
theorem decodeOfEncode : Obligations.DecodeOfEncode :=
  fun _ _ rest hwf => decode_encode_append rest hwf

/-! ## Displacements (R46, R67, R68) -/

/-- Writing back the number of a byte string gives the bytes. -/
theorem leBytes_leNat (bs : List Byte) : leBytes bs.length (leNat bs) = bs := by
  induction bs with
  | nil => rfl
  | cons b bs ih =>
    have hb := b.isLt
    have hhead : BitVec.ofNat 8 (b.toNat + 256 * leNat bs) = b := by
      apply BitVec.eq_of_toNat_eq
      rw [BitVec.toNat_ofNat]
      omega
    have htail : (b.toNat + 256 * leNat bs) / 256 = leNat bs := by omega
    rw [List.length_cons, leNat, leBytes, hhead, htail, ih]

/-- The same through a value that the bytes fill. -/
theorem leBytes_leBits {w : Nat} (bs : List Byte) (hw : w = 8 * bs.length) :
    leBytes bs.length (leBits w bs).toNat = bs := by
  have hlt : leNat bs < 2 ^ w := by
    rw [hw, Nat.pow_mul]
    exact leNat_lt bs
  rw [leBits, BitVec.toNat_ofNat, Nat.mod_eq_of_lt hlt, leBytes_leNat]

theorem takeDisp8_ok {bs rest : List Byte} {d : BitVec 8} (htake : takeDisp8 bs = .ok (d, rest)) : bs = d :: rest := by
  cases bs with
  | nil => cases htake
  | cons b bs =>
    cases htake
    rfl

theorem takeDisp16_ok {bs rest : List Byte} {d : BitVec 16} (htake : takeDisp16 bs = .ok (d, rest)) :
    bs = leBytes 2 d.toNat ++ rest := by
  revert htake
  fun_cases takeDisp16 bs
  case case1 b0 b1 bs =>
    rintro ⟨⟩
    exact congrArg (· ++ rest) (leBytes_leBits [b0, b1] rfl).symm
  case case2 => exact fun h => nomatch h

theorem takeDisp32_ok {bs rest : List Byte} {d : BitVec 32} (htake : takeDisp32 bs = .ok (d, rest)) :
    bs = leBytes 4 d.toNat ++ rest := by
  revert htake
  fun_cases takeDisp32 bs
  case case1 b0 b1 b2 b3 bs =>
    rintro ⟨⟩
    exact congrArg (· ++ rest) (leBytes_leBits [b0, b1, b2, b3] rfl).symm
  case case2 => exact fun h => nomatch h

/-- A displacement that was read is one that the address size has, announced by mod, and its encoding was consumed. -/
theorem takeDisp_ok {a : AddrSize} {mod : BitVec 2} {bs rest : List Byte} {d : Disp} {needed : Bool}
    (hmod : mod ≠ 3) (hneeded : ¬ (mod = 0 ∧ needed = true)) (htake : takeDisp a mod bs = .ok (d, rest)) :
    modOfDisp d = mod ∧ d.wfFor a needed = true ∧ bs = encodeDisp d ++ rest := by
  have htwo : ∀ x : BitVec 2, x ≠ 3 → x ≠ 0 → x ≠ 1 → 2 = x := by decide
  revert htake
  fun_cases takeDisp a mod bs
  case case1 h0 =>
    rintro ⟨⟩
    have hn : needed = false := by simpa [h0] using hneeded
    exact ⟨h0.symm, by simp [Disp.wfFor, Disp.wf16, Disp.wf32, hn], rfl⟩
  case case2 _ h1 d r htake8 =>
    rintro ⟨⟩
    exact ⟨h1.symm, by simp [Disp.wfFor, Disp.wf16, Disp.wf32], takeDisp8_ok htake8⟩
  case case4 h0 h1 ha d r htake16 =>
    rintro ⟨⟩
    exact ⟨htwo mod hmod h0 h1, by simp [Disp.wfFor, ha, Disp.wf16], takeDisp16_ok htake16⟩
  case case6 h0 h1 ha d r htake32 =>
    rintro ⟨⟩
    exact ⟨htwo mod hmod h0 h1, by simp [Disp.wfFor, ha, Disp.wf32], takeDisp32_ok htake32⟩
  all_goals exact fun h => nomatch h

/-! ## The memory operand (R62, R67 to R69) -/

/-- The operand `m` is well-formed under the address size, has these mod and r/m fields, and its bytes after ModRM are
what was consumed. -/
structure MemOperand.ReadFrom (a : AddrSize) (mod : BitVec 2) (rm : BitVec 3) (bs : List Byte) (m : MemOperand)
    (rest : List Byte) : Prop where
  size : m.wfSize a = true
  form : m.wfForm = true
  mod_eq : m.modField = mod
  rm_eq : m.rmField = rm
  bytes : bs = m.tailBytes ++ rest

theorem decodeMem16_ok {mod : BitVec 2} {rm : BitVec 3} {bs rest : List Byte} {m : MemOperand} (hmod : mod ≠ 3)
    (hdecode : decodeMem16 mod rm bs = .ok (m, rest)) : MemOperand.ReadFrom .a16 mod rm bs m rest := by
  revert hdecode
  fun_cases decodeMem16 mod rm bs
  case case1 hdirect d r htake =>
    rintro ⟨⟩
    exact ⟨rfl, rfl, hdirect.1.symm, hdirect.2.symm, takeDisp16_ok htake⟩
  case case3 hdirect d r htake =>
    rintro ⟨⟩
    have hneeded : ¬ (mod = 0 ∧ (regs16OfRm rm == .bp) = true) := by
      rw [beq_iff_eq, ← rmOfRegs16_eq_six_iff, rmOfRegs16_regs16OfRm]
      exact hdirect
    obtain ⟨hm, hwf, hbytes⟩ := takeDisp_ok hmod hneeded htake
    exact ⟨rfl, hwf, hm, rmOfRegs16_regs16OfRm rm, hbytes⟩
  all_goals exact fun h => nomatch h

theorem decodeSib_ok {a : AddrSize} {mod : BitVec 2} {sib : Byte} {bs rest : List Byte} {m : MemOperand}
    (ha : a ≠ .a16) (hmod : mod ≠ 3) (hdecode : decodeSib a mod sib bs = .ok (m, rest)) :
    MemOperand.ReadFrom a mod 4 (sib :: bs) m rest := by
  have hsize : (a != .a16) = true := bne_iff_ne.mpr ha
  revert hdecode
  fun_cases decodeSib a mod sib bs
  case case1 hnoBase d r htake =>
    rintro ⟨⟩
    have hsib : fields233 (field76 sib) (field53 sib) 5 = sib := by rw [← hnoBase.2, fields233_of_fields]
    exact ⟨hsize, rfl, hnoBase.1.symm, rfl,
      by rw [MemOperand.tailBytes, hsib, List.cons_append, ← takeDisp32_ok htake]⟩
  case case3 hnoBase d r htake =>
    rintro ⟨⟩
    have hneeded : ¬ (mod = 0 ∧ (field20 sib == 5) = true) := by rwa [beq_iff_eq]
    obtain ⟨hm, hwf, hbytes⟩ := takeDisp_ok hmod hneeded htake
    rw [Disp.wfFor, if_neg ha] at hwf
    exact ⟨hsize, hwf, hm, rfl, by rw [MemOperand.tailBytes, fields233_of_fields, List.cons_append, ← hbytes]⟩
  all_goals exact fun h => nomatch h

theorem decodeMem32_ok {a : AddrSize} {mod : BitVec 2} {rm : BitVec 3} {bs rest : List Byte} {m : MemOperand}
    (ha : a ≠ .a16) (hmod : mod ≠ 3) (hdecode : decodeMem32 a mod rm bs = .ok (m, rest)) :
    MemOperand.ReadFrom a mod rm bs m rest := by
  have hsize : (a != .a16) = true := bne_iff_ne.mpr ha
  revert hdecode
  fun_cases decodeMem32 a mod rm bs
  case case2 hrm sib bs =>
    rw [hrm]
    exact decodeSib_ok ha hmod
  case case3 hrm hdirect d r htake =>
    rintro ⟨⟩
    exact ⟨hsize, rfl, hdirect.1.symm, hdirect.2.symm, takeDisp32_ok htake⟩
  case case5 hrm hdirect d r htake =>
    rintro ⟨⟩
    have hneeded : ¬ (mod = 0 ∧ (rm == 5) = true) := by rwa [beq_iff_eq]
    obtain ⟨hm, hwf, hbytes⟩ := takeDisp_ok hmod hneeded htake
    rw [Disp.wfFor, if_neg ha] at hwf
    exact ⟨hsize, Bool.and_eq_true_iff.mpr ⟨bne_iff_ne.mpr hrm, hwf⟩, hm, rfl, hbytes⟩
  all_goals exact fun h => nomatch h

theorem decodeMem_ok {a : AddrSize} {mod : BitVec 2} {rm : BitVec 3} {bs rest : List Byte} {m : MemOperand}
    (hmod : mod ≠ 3) (hdecode : decodeMem a mod rm bs = .ok (m, rest)) : MemOperand.ReadFrom a mod rm bs m rest := by
  by_cases ha : a = .a16
  · subst ha
    exact decodeMem16_ok hmod hdecode
  · rw [decodeMem, if_neg ha] at hdecode
    exact decodeMem32_ok ha hmod hdecode

/-- What decodes from the opcode on begins with 0F AE and a ModRM byte with reg = 5 and mod not 11 (R61, R62). -/
theorem decodeOpcode_ok_bytes {a : AddrSize} {bs rest : List Byte} {m : MemOperand}
    (hdecode : decodeOpcode a bs = .ok (m, rest)) :
    ∃ (modrm : Byte) (back : List Byte), bs = 0x0F :: 0xAE :: modrm :: back ∧ field53 modrm = 5 ∧
      field76 modrm ≠ 3 ∧ decodeMem a (field76 modrm) (field20 modrm) back = .ok (m, rest) := by
  revert hdecode
  fun_cases decodeOpcode a bs
  case case8 op1 h1 op2 h2 modrm back hreg hmod =>
    exact fun hmem => ⟨modrm, back, by rw [not_not.mp h1, not_not.mp h2], not_not.mp hreg, hmod, hmem⟩
  all_goals exact fun h => nomatch h

/-- What decodes from the opcode on is 0F AE and the encoding of a well-formed operand (R61, R62). -/
theorem decodeOpcode_ok {a : AddrSize} {bs rest : List Byte} {m : MemOperand}
    (hdecode : decodeOpcode a bs = .ok (m, rest)) :
    m.wfSize a = true ∧ m.wfForm = true ∧ bs = 0x0F :: 0xAE :: encodeMem m ++ rest := by
  obtain ⟨modrm, back, rfl, hreg, hmod, hmem⟩ := decodeOpcode_ok_bytes hdecode
  obtain ⟨hsize, hform, hmodField, hrmField, rfl⟩ := decodeMem_ok hmod hmem
  have hmodrm : fields233 m.modField 5 m.rmField = modrm := by
    rw [hmodField, hrmField, ← hreg, fields233_of_fields]
  exact ⟨hsize, hform, by rw [encodeMem_eq, hmodrm]; rfl⟩

/-! ## Prefixes and the REX byte (R60, R63, R64) -/

/-- A legacy byte is the encoding of what it stands for, which every code size has. -/
theorem legacyOfByte_some {c : CodeSize} {b : Byte} {p : Prefix} (hlegacy : legacyOfByte b = some p) :
    encodePrefix p = b ∧ p.wf c = true ∧ ∀ q, p ≠ .ignoredRex q := by
  unfold legacyOfByte at hlegacy
  split_ifs at hlegacy <;> cases hlegacy <;> exact ⟨Eq.symm ‹_›, rfl, fun _ => Prefix.noConfusion⟩

/-- A REX byte exists in 64-bit mode only, and is 0100 before its low four bits. -/
theorem rexOfByte_some {c : CodeSize} {b : Byte} {q : BitVec 4} (hrex : rexOfByte c b = some q) :
    c = .code64 ∧ 4#4 ++ q = b := by
  obtain ⟨⟨hc, hhigh⟩, hlow⟩ : (c = .code64 ∧ b.extractLsb' 4 4 = 4#4) ∧ b.extractLsb' 0 4 = q := by
    simpa [rexOfByte] using hrex
  have hbyte : ∀ x : Byte, x.extractLsb' 4 4 ++ x.extractLsb' 0 4 = x := by decide
  exact ⟨hc, by rw [← hhigh, ← hlow, hbyte]⟩

/-- The REX byte in force from its low four bits, none without one. -/
def rexBytes (rex : Option (BitVec 4)) : List Byte := (rex.map (4#4 ++ ·)).toList

/-- The prefixes `ps` and the REX byte in force, with `rest` after them, are what the bytes `bs` begin with, and the
code size admits them. -/
structure ScannedFrom (c : CodeSize) (bs : List Byte) (ps : List Prefix) (rex : Option (BitVec 4))
    (rest : List Byte) : Prop where
  bytes : bs = ps.map encodePrefix ++ (rexBytes rex ++ rest)
  admitted : ps.all (Prefix.wf c) = true
  rex_code64 : rex ≠ none → c = .code64
  followed : ∀ q, ps.getLast? = some (.ignoredRex q) → rex ≠ none

/-- One more encoded byte before scanned ones; an ignored REX byte has something it is ignored for. -/
theorem ScannedFrom.cons {c : CodeSize} {p : Prefix} {bs rest : List Byte} {ps : List Prefix}
    {rex : Option (BitVec 4)} (hscanned : ScannedFrom c bs ps rex rest) (hwf : p.wf c = true)
    (hfollowed : ∀ q, p = .ignoredRex q → ps ≠ [] ∨ rex ≠ none) :
    ScannedFrom c (encodePrefix p :: bs) (p :: ps) rex rest where
  bytes := by rw [hscanned.bytes]; rfl
  admitted := by rw [List.all_cons, hwf, hscanned.admitted]; rfl
  rex_code64 := hscanned.rex_code64
  followed := by
    intro q hq
    cases ps with
    | nil => exact (hfollowed q (by simpa using hq)).resolve_left (· rfl)
    | cons p' ps => exact hscanned.followed q (by simpa using hq)

/-- The prefixes that a scan answers are those whose bytes it consumed (R60, R64). -/
theorem scanPrefixes_ok {c : CodeSize} {bs rest : List Byte} {ps : List Prefix} {rex : Option (BitVec 4)}
    (hscan : scanPrefixes c bs = .ok (ps, rex, rest)) : ScannedFrom c bs ps rex rest := by
  fun_induction scanPrefixes c bs generalizing ps rex with
  | case4 b bs _ p hlegacy ps' rex' rest' htail ih =>
    cases hscan
    obtain ⟨rfl, hwf, hne⟩ := legacyOfByte_some (c := c) hlegacy
    exact (ih htail).cons hwf fun q hq => absurd hq (hne q)
  | case5 b bs =>
    cases hscan
    exact ⟨rfl, rfl, fun h => absurd rfl h, fun _ h => by cases h⟩
  | case7 b bs _ _ q hrex rest' htail ih =>
    cases hscan
    obtain ⟨hc, rfl⟩ := rexOfByte_some hrex
    exact ⟨congrArg _ (ih htail).bytes, rfl, fun _ => hc, fun _ _ => Option.some_ne_none q⟩
  | case8 b bs _ _ q hrex ps' rex' rest' hfollowed htail ih =>
    cases hscan
    obtain ⟨rfl, rfl⟩ := rexOfByte_some hrex
    have hmore : ps' ≠ [] ∨ rex' ≠ none := not_and_or.mp fun ⟨hps, hrex⟩ => hfollowed hps hrex
    exact (ih htail).cons (p := .ignoredRex q) rfl fun _ _ => hmore
  | case1 | case2 | case3 | case6 => cases hscan

/-! ## The instruction (R60 to R72) -/

@[simp] theorem mkInstr_prefixes (ps : List Prefix) (rex : Option (BitVec 4)) (m : MemOperand) :
    (mkInstr ps rex m).prefixes = ps := by
  unfold mkInstr
  split
  · rfl
  · split <;> rfl

@[simp] theorem mkInstr_mem (ps : List Prefix) (rex : Option (BitVec 4)) (m : MemOperand) :
    (mkInstr ps rex m).mem = m := by
  unfold mkInstr
  split
  · rfl
  · split <;> rfl

/-- A REX byte's low half is made of its W, R, X and B bits (R64). -/
theorem rexNibble_rexBitsOf (q : BitVec 4) : rexNibble (q.getLsbD 3) (rexBitsOf q) = q := by
  revert q; decide

@[simp] theorem mkInstr_rexNibble? (ps : List Prefix) (rex : Option (BitVec 4)) (m : MemOperand) :
    (mkInstr ps rex m).rexNibble? = rex := by
  cases rex with
  | none => rfl
  | some q =>
    have hq := rexNibble_rexBitsOf q
    rw [mkInstr]
    split
    · next hw =>
      rw [hw] at hq
      exact congrArg some hq
    · next hw =>
      rw [Bool.eq_false_iff.mpr hw] at hq
      exact congrArg some hq

/-- An instruction has a REX byte exactly when it has that byte's low half. -/
theorem Instr.rex_isSome (i : Instr) : i.rex.isSome = i.rexNibble?.isSome := by
  cases i with
  | xrstor ps rex m => simp [Instr.rex, Instr.rexNibble?]
  | xrstor64 ps q m => rfl

/-- An encoded instruction is its prefixes, its REX byte, 0F AE, and its operand. -/
theorem encode_eq_rexBytes (i : Instr) :
    encode i = i.prefixes.map encodePrefix ++ (rexBytes i.rexNibble? ++ 0x0F :: 0xAE :: encodeMem i.mem) := by
  rw [encode_eq, Instr.rexOpcode]
  cases i.rexNibble? <;> rfl

/-- Decoding is a scan of the prefixes, then the opcode and the operand, then the check of the length. -/
theorem decode_ok {c : CodeSize} {bs rest : List Byte} {i : Instr} (hdecode : decode c bs = .ok (i, rest)) :
    ∃ mid, scanPrefixes c bs = .ok (i.prefixes, i.rexNibble?, mid) ∧
      decodeOpcode (i.addrSize c) mid = .ok (i.mem, rest) ∧ i.length ≤ 15 := by
  revert hdecode
  fun_cases decode c bs
  case case3 ps rex mid hscan m rest' hopcode hlength =>
    rintro ⟨⟩
    exact ⟨mid, by simpa using hscan, by simpa [Instr.addrSize] using hopcode, hlength⟩
  all_goals exact fun h => nomatch h

/-- Admitted prefixes and REX are well-formed ones of the instruction. -/
theorem ScannedFrom.wf {c : CodeSize} {bs mid : List Byte} {i : Instr}
    (hscanned : ScannedFrom c bs i.prefixes i.rexNibble? mid) : i.wfPrefixes c = true ∧ i.wfRex c = true := by
  constructor
  · rw [Instr.wfPrefixes, hscanned.admitted, Bool.true_and]
    split
    · next q hlast =>
      rw [Bool.or_false, Instr.rex_isSome, Option.isSome_iff_ne_none]
      exact hscanned.followed q hlast
    · exact Bool.or_true _
  · rw [Instr.wfRex]
    cases hrex : i.rex with
    | none => rfl
    | some q =>
      have hne : i.rexNibble? ≠ none := by simp [Ne, Instr.rexNibble?_eq_none_iff, hrex]
      rw [hscanned.rex_code64 hne]
      rfl

/-- What decodes is well-formed, and its encoding was consumed (R60 to R72). -/
theorem wf_and_encode_of_decode {c : CodeSize} {bs rest : List Byte} {i : Instr}
    (hdecode : decode c bs = .ok (i, rest)) : i.wf c = true ∧ bs = encode i ++ rest := by
  obtain ⟨mid, hscan, hopcode, hlength⟩ := decode_ok hdecode
  have hscanned := scanPrefixes_ok hscan
  obtain ⟨hprefixes, hrex⟩ := hscanned.wf
  obtain ⟨hsize, hform, rfl⟩ := decodeOpcode_ok hopcode
  constructor
  · rw [Instr.wf, hprefixes, hrex, hsize, hform, Instr.wfLength, decide_eq_true hlength]
    rfl
  · rw [hscanned.bytes, encode_eq_rexBytes]
    simp only [List.append_assoc, List.cons_append]

/-- Settles O10, by what the scan of the prefixes and the decoding of the operand consumed. -/
theorem encodeOfDecode : Obligations.EncodeOfDecode := by
  intro c bs i rest hdecode
  obtain ⟨hwf, hbytes⟩ := wf_and_encode_of_decode hdecode
  exact ⟨hwf, hbytes, by rw [encode_length]; exact i.length_le_of_wf hwf⟩

/-- Settles O11: the bytes are the encoding, which has ModRM after the prefixes, REX and 0F AE. -/
theorem decodedBytesHaveTheOpcode : Obligations.DecodedBytesHaveTheOpcode := by
  intro c bs i rest hdecode
  have hmodrm : ∀ (mod : BitVec 2) (rm : BitVec 3), mod ≠ 3#2 →
      (0x28 ≤ (fields233 mod 5 rm).toNat ∧ (fields233 mod 5 rm).toNat ≤ 0x2F) ∨
      (0x68 ≤ (fields233 mod 5 rm).toNat ∧ (fields233 mod 5 rm).toNat ≤ 0x6F) ∨
      (0xA8 ≤ (fields233 mod 5 rm).toNat ∧ (fields233 mod 5 rm).toNat ≤ 0xAF) := by decide
  refine ⟨i.prefixes.map encodePrefix ++ rexBytes i.rexNibble?, fields233 i.mem.modField 5 i.mem.rmField,
    i.mem.tailBytes ++ rest, ?_, ?_, hmodrm _ _ i.mem.modField_ne_three⟩
  · rw [(wf_and_encode_of_decode hdecode).2, encode_eq_rexBytes, encodeMem_eq]
    simp only [List.append_assoc, List.cons_append]
  · rw [List.length_append, List.length_map, Instr.rex_isSome]
    cases i.rexNibble? <;> rfl

/-- Settles O12: the words are encodings that are read back, and what decodes is well-formed, so that its REX byte says
64-bit mode. -/
theorem xrstorSixtyFourDecodesOnlyInLongMode : Obligations.XrstorSixtyFourDecodesOnlyInLongMode := by
  refine ⟨fun c rest => ?_, fun rest => ?_, fun c bs ps q m rest hdecode => ?_⟩
  · cases c with
    | code16 => exact ⟨_, decode_encode_append (i := .xrstor [] none (.regs16 .bxSi .none)) rest (by decide)⟩
    | code32 => exact ⟨_, decode_encode_append (i := .xrstor [] none (.base 0 .none)) rest (by decide)⟩
    | code64 => exact ⟨_, decode_encode_append (i := .xrstor [] none (.base 0 .none)) rest (by decide)⟩
  · exact ⟨_, _, decode_encode_append (i := .xrstor64 [] ⟨false, false, false⟩ (.base 0 .none)) rest (by decide)⟩
  · have hwf := (wf_and_encode_of_decode hdecode).1
    simp only [Instr.wf, Bool.and_eq_true] at hwf
    obtain ⟨⟨⟨⟨-, hrex⟩, -⟩, -⟩, -⟩ := hwf
    simpa [Instr.wfRex, Instr.rex] using hrex

/-- Settles O14, by running the decoder on the words. -/
theorem writtenWordsDecode : Obligations.WrittenWordsDecode :=
  ⟨by decide, by decide, by decide, by decide, by decide⟩

end Sys2Proof
end

section
/-! Proofs. The refusals by name of the neighbouring encodings (R62, R63, R73): admitted prefixes do not change which
bytes the decoder goes on with. -/

namespace Sys2Proof

/-- The bytes that the scan of the prefixes stops at. -/
def afterPrefixes (c : CodeSize) (bs : List Byte) : Except DecodeError (List Byte) :=
  (scanPrefixes c bs).map fun (_, _, rest) => rest

/-- Of admitted prefixes no byte is 66H, F2H or F3H, and each is a legacy byte or a REX byte. -/
theorem encodePrefix_facts {c : CodeSize} {p : Prefix} (hwf : p.wf c = true) :
    isMandatory (encodePrefix p) = false ∧
      (legacyOfByte (encodePrefix p) = some p ∨
        legacyOfByte (encodePrefix p) = none ∧ ∃ q, rexOfByte c (encodePrefix p) = some q) := by
  cases p with
  | segment r => cases r <;> exact ⟨by decide, .inl (by decide)⟩
  | addressSize | lock => exact ⟨by decide, .inl (by decide)⟩
  | ignoredRex q =>
    obtain rfl : c = .code64 := by simpa [Prefix.wf] using hwf
    obtain ⟨hmand, hlegacy, hrex⟩ := rexByte_facts q
    exact ⟨hmand, .inr ⟨hlegacy, q, hrex⟩⟩

/-- The byte of one of the admitted prefixes does not change where the scan stops, nor its error. -/
theorem afterPrefixes_encodePrefix {c : CodeSize} {p : Prefix} (bs : List Byte) (hwf : p.wf c = true) :
    afterPrefixes c (encodePrefix p :: bs) = afterPrefixes c bs := by
  obtain ⟨hmand, hlegacy | ⟨hlegacy, q, hrex⟩⟩ := encodePrefix_facts hwf
  · rw [afterPrefixes, afterPrefixes, scanPrefixes.eq_def]
    simp only [hmand, hlegacy]
    rcases scanPrefixes c bs with e | ⟨ps, rex, rest⟩ <;> rfl
  · rw [afterPrefixes, afterPrefixes, scanPrefixes.eq_def]
    simp only [hmand, hlegacy, hrex]
    rcases scanPrefixes c bs with e | ⟨_ | ⟨p', ps⟩, _ | q', rest⟩ <;> rfl

theorem afterPrefixes_map_encodePrefix {c : CodeSize} {ps : List Prefix} (bs : List Byte)
    (hwf : ps.all (Prefix.wf c) = true) : afterPrefixes c (ps.map encodePrefix ++ bs) = afterPrefixes c bs := by
  induction ps with
  | nil => rfl
  | cons p ps ih =>
    obtain ⟨hp, hps⟩ : p.wf c = true ∧ ps.all (Prefix.wf c) = true := by simpa using hwf
    rw [List.map_cons, List.cons_append, afterPrefixes_encodePrefix _ hp, ih hps]

/-- An error of the scan is the decoder's. -/
theorem decode_of_afterPrefixes_error {c : CodeSize} {bs : List Byte} {e : DecodeError}
    (hafter : afterPrefixes c bs = .error e) : decode c bs = .error e := by
  unfold afterPrefixes at hafter
  unfold decode
  cases hscan : scanPrefixes c bs with
  | error e' =>
    rw [hscan] at hafter
    cases hafter
    rfl
  | ok r =>
    rw [hscan] at hafter
    cases hafter

/-- An error after the prefixes, whatever the address size, is the decoder's. -/
theorem decode_of_decodeOpcode_error {c : CodeSize} {bs mid : List Byte} {e : DecodeError}
    (hafter : afterPrefixes c bs = .ok mid) (hopcode : ∀ a, decodeOpcode a mid = .error e) :
    decode c bs = .error e := by
  unfold afterPrefixes at hafter
  unfold decode
  cases hscan : scanPrefixes c bs with
  | error e' =>
    rw [hscan] at hafter
    cases hafter
  | ok r =>
    rw [hscan] at hafter
    cases hafter
    simp only [hopcode]

/-- 66H, F2H and F3H stop the scan. -/
theorem afterPrefixes_mandatory (c : CodeSize) {b : Byte} (rest : List Byte) (hb : b = 0x66 ∨ b = 0xF2 ∨ b = 0xF3) :
    afterPrefixes c (b :: rest) = .error (.mandatoryPrefix b) := by
  rcases hb with rfl | rfl | rfl <;> rfl

theorem afterPrefixes_opcode (c : CodeSize) (bs : List Byte) : afterPrefixes c (0x0F :: bs) = .ok (0x0F :: bs) := by
  rw [afterPrefixes, scanPrefixes_opcode]
  rfl

/-- 0F AE with reg other than 5 is refused (R62). -/
theorem decodeOpcode_otherGroup {modrm : Byte} (rest : List Byte) (hreg : field53 modrm ≠ 5) (a : AddrSize) :
    decodeOpcode a (0x0F :: 0xAE :: modrm :: rest) = .error (.otherGroup (field53 modrm)) := by
  simp only [decodeOpcode, ne_eq, not_true_eq_false, if_false, if_pos hreg]

/-- 0F AE with reg = 5 and mod = 11 is refused (R62, R73). -/
theorem decodeOpcode_registerForm {modrm : Byte} (rest : List Byte) (hreg : field53 modrm = 5)
    (hmod : field76 modrm = 3) (a : AddrSize) :
    decodeOpcode a (0x0F :: 0xAE :: modrm :: rest) = .error (.registerForm (field20 modrm)) := by
  simp only [decodeOpcode, ne_eq, not_true_eq_false, if_false, hreg, hmod, if_true]

/-- Settles O13: admitted prefixes leave the bytes after them to the decoder, which refuses each of the three kinds. -/
theorem neighbouringEncodingsAreRefused : Obligations.NeighbouringEncodingsAreRefused := by
  intro c ps rest hwf
  have hopcode : ∀ bs, afterPrefixes c (ps.map encodePrefix ++ 0x0F :: bs) = .ok (0x0F :: bs) := fun bs => by
    rw [afterPrefixes_map_encodePrefix _ hwf, afterPrefixes_opcode]
  refine ⟨fun b hb => ?_, fun modrm hreg => ?_, fun modrm hmodReg => ?_⟩
  · apply decode_of_afterPrefixes_error
    rw [afterPrefixes_map_encodePrefix _ hwf, afterPrefixes_mandatory c rest hb]
  · have hfield : ∀ x : Byte, x &&& 0x38 ≠ 0x28 → field53 x ≠ 5 := by decide
    exact decode_of_decodeOpcode_error (hopcode _) (decodeOpcode_otherGroup rest (hfield modrm hreg))
  · have hfields : ∀ x : Byte, x &&& 0xF8 = 0xE8 → field53 x = 5 ∧ field76 x = 3 := by decide
    obtain ⟨hreg, hmod⟩ := hfields modrm hmodReg
    exact decode_of_decodeOpcode_error (hopcode _) (decodeOpcode_registerForm rest hreg hmod)

end Sys2Proof
end

section
/-! Proofs. The numbers of effective addresses: a base register, a SIB byte and the 16-bit forms with a displacement
(R67 to R69). A sum of registers is followed as an integer modulo 2^64 and cut to the address width at the end. -/

namespace Sys2Proof.Machine

/-! ## 64-bit sums as integers -/

/-- The register value is the integer modulo 2^64. -/
def Represents (v : Word64) (n : Int) : Prop := (v.toNat : Int) ≡ n [ZMOD 2 ^ 64]

theorem represents_toNat (v : Word64) : Represents v v.toNat := Int.ModEq.refl _

theorem Represents.add {v x : Word64} {n k : Int} (hv : Represents v n) (hx : Represents x k) :
    Represents (v + x) (n + k) := by
  rw [Represents, BitVec.toNat_add, Int.natCast_emod, Int.natCast_add]
  exact (Int.mod_modEq _ _).trans (Int.ModEq.add hv hx)

theorem represents_signExtend {w : Nat} (d : BitVec w) : Represents (d.signExtend 64) d.toInt := by
  rw [Represents, BitVec.signExtend, BitVec.toNat_ofInt, Int.toNat_of_nonneg (Int.emod_nonneg _ (by decide))]
  exact Int.mod_modEq _ _

theorem represents_shiftLeft (v : Word64) (k : Nat) : Represents (v <<< k) (v.toNat * 2 ^ k : Nat) := by
  rw [Represents, BitVec.toNat_shiftLeft, Nat.shiftLeft_eq, Int.natCast_emod]
  exact Int.mod_modEq _ _

theorem represents_dispValue (d : Disp) : Represents (dispValue d) (dispInt d) := by
  cases d with
  | none => exact represents_toNat 0
  | disp8 d | disp16 d | disp32 d => exact represents_signExtend d

/-- Cut to `w` bits, a represented integer is left modulo 2^w. -/
theorem Represents.toNat_lowBits {w : Nat} {v : Word64} {n : Int} (hv : Represents v n) (hw : w ≤ 64) :
    ((lowBits w v).toNat : Int) = n % 2 ^ w := by
  have hdvd : (2 : Int) ^ w ∣ 2 ^ 64 := pow_dvd_pow 2 hw
  rw [lowBits_toNat hw, Int.natCast_emod, Int.natCast_pow]
  exact hv.of_dvd hdvd

/-- The effective address is the integer that the address sum represents, modulo 2^W. -/
theorem effectiveAddress_toNat {s : State} {i : Instr} {n : Int} (hsum : Represents (addressSum s i) n) :
    ((effectiveAddress s i).toNat : Int) = n % 2 ^ addrWidth (i.addrSize s.codeSize) := by
  have hw : addrWidth (i.addrSize s.codeSize) ≤ 64 := by
    cases i.addrSize s.codeSize <;> decide
  exact hsum.toNat_lowBits hw

/-! ## The addressing forms (R67 to R69) -/

/-- Settles O18: the address sum is that of the register and the displacement. -/
theorem baseAddressing : Obligations.BaseAddressing := by
  intro s i r d hmem
  apply effectiveAddress_toNat
  rw [addressSum, hmem]
  exact (represents_toNat _).add (represents_dispValue d)

/-- Register number 4 is RSP only without the REX bit: X:index = 0100 is no index (R69). -/
theorem extendReg_eq_rsp_iff {hi : Bool} {r : BitVec 3} : extendReg hi r = rsp ↔ hi = false ∧ r = 4 := by
  revert hi r; decide

/-- The scaled index as a number, 0 where there is none. -/
theorem represents_indexValue (s : State) (x : Bool) (scale : BitVec 2) (index : BitVec 3) :
    Represents (indexValue s x scale index)
      (if x = false ∧ index = 4 then 0 else (s.reg (extendReg x index)).toNat * 2 ^ scale.toNat : Nat) := by
  simp only [indexValue, extendReg_eq_rsp_iff]
  split
  · exact represents_toNat 0
  · exact represents_shiftLeft _ _

/-- Settles O19: the address sum is that of the base, the scaled index and the displacement. -/
theorem sibAddressing : Obligations.SibAddressing := by
  intro s i scale index
  refine ⟨fun b d hmem => ?_, fun d hmem => ?_⟩
  · apply effectiveAddress_toNat
    rw [addressSum, hmem]
    exact ((represents_toNat _).add (represents_indexValue s _ scale index)).add (represents_dispValue d)
  · apply effectiveAddress_toNat
    rw [addressSum, hmem]
    exact (represents_indexValue s _ scale index).add (represents_signExtend d)

/-- Settles O21: a 16-bit offset is its own low 16 bits, and each register sum is that of its registers. -/
theorem sixteenBitAddressing : Obligations.SixteenBitAddressing := by
  intro s i hsize
  refine ⟨fun e hmem => ?_, fun r d hmem => ?_⟩
  · have he := e.isLt
    rw [effectiveAddress, hsize, addressSum, hmem, addrWidth, lowBits_toNat (by decide),
      BitVec.toNat_setWidth_of_le (by decide), Nat.mod_eq_of_lt he]
  · have hwidth : addrWidth (i.addrSize s.codeSize) = 16 := by rw [hsize, addrWidth]
    rw [← hwidth]
    apply effectiveAddress_toNat
    rw [addressSum, hmem]
    refine Represents.add ?_ (represents_dispValue d)
    cases r with
    | bxSi | bxDi | bpSi | bpDi => exact (represents_toNat _).add (represents_toNat _)
    | si | di | bp | bx => exact represents_toNat _

end Sys2Proof.Machine
end

section
/-! Proofs. The segment of an operand: the last override, or the default by the addressing form (R68, R70). -/

namespace Sys2Proof.Machine

theorem lastOverride_eq_none {ps : List Prefix} (hnone : ∀ r, Prefix.segment r ∉ ps) : lastOverride ps = none := by
  induction ps with
  | nil => rfl
  | cons p ps ih =>
    have htail : lastOverride ps = none := ih fun r hr => hnone r (List.mem_cons_of_mem p hr)
    cases p with
    | segment r => exact absurd List.mem_cons_self (hnone r)
    | addressSize | lock | ignoredRex _ => simp only [lastOverride, htail]

/-- An override after which no other stands is the last one, whatever stands before it. -/
theorem lastOverride_append_segment {qs : List Prefix} (ps : List Prefix) (r : SegReg)
    (hnone : ∀ r', Prefix.segment r' ∉ qs) : lastOverride (ps ++ .segment r :: qs) = some r := by
  induction ps with
  | nil => simp only [List.nil_append, lastOverride, lastOverride_eq_none hnone]
  | cons p ps ih => simp only [List.cons_append, lastOverride, ih]

/-- The stack or frame pointer as a base: register 4 or 5 without REX.B. -/
theorem isStackReg_eq (hi : Bool) (r : BitVec 3) :
    (extendReg hi r == rsp || extendReg hi r == rbp) = decide (hi = false ∧ (r = 4 ∨ r = 5)) := by
  revert hi r; decide

/-- Settles O22, by the last override, and without one by the addressing form. -/
theorem segmentOfAnOperand : Obligations.SegmentOfAnOperand := by
  intro i
  refine ⟨fun ps qs r hprefixes hnone => ?_, fun hnone => ?_⟩
  · rw [segmentOf, hprefixes, lastOverride_append_segment ps r hnone]
  · rw [segmentOf, lastOverride_eq_none hnone, usesStack]
    cases i.mem with
    | regs16 r d => cases r <;> rfl
    | base r d | sib _ _ r d => simp only [isStackReg_eq, decide_eq_true_eq]
    | direct16 _ | direct32 _ | sibNoBase _ _ _ => rfl

end Sys2Proof.Machine
end

section
/-! Proofs. The masks as bit vectors, the x87 state, and the tracking state (R86, R87, R92, R93, R96, R97, R104). -/

namespace Sys2Proof.Machine

/-! ## The masks (R86, R92) -/

/-- A mask split in two by another: the parts are disjoint. -/
theorem and_and_and_not {w : Nat} (v m : BitVec w) : (v &&& m) &&& (v &&& ~~~m) = 0 := by
  refine BitVec.eq_of_getElem_eq fun b hb => ?_
  cases hm : m[b] <;> simp [hm]

/-- A mask split in two by another: the parts together are the mask. -/
theorem and_or_and_not {w : Nat} (v m : BitVec w) : (v &&& m) ||| (v &&& ~~~m) = v := by
  refine BitVec.eq_of_getElem_eq fun b hb => ?_
  cases hm : m[b] <;> simp [hm]

/-- Settles O27: XSTATE_BV splits RFBM in two. -/
theorem standardMasks : Obligations.StandardMasks := by
  intro h rfbm hstd
  rw [Header.toBeRestored_standard hstd, Header.toBeInitialized_standard hstd]
  exact ⟨rfl, rfl, and_and_and_not _ _, and_or_and_not _ _⟩

section Compacted

variable {h : Header} (hcomp : h.xcompBv.getLsbD 63 = true)

include hcomp

/-- The compacted form's TO_BE_RESTORED (R92). -/
theorem Header.toBeRestored_compacted (rfbm : Word64) :
    h.toBeRestored rfbm = rfbm &&& (h.format &&& h.xstateBv) := by
  simp only [Header.toBeRestored, Header.compacted, hcomp, if_true]
  ac_rfl

/-- The compacted form's TO_BE_INITIALIZED: what is requested and not restored (R92). -/
theorem Header.toBeInitialized_compacted (rfbm : Word64) :
    h.toBeInitialized rfbm = rfbm &&& ~~~(h.format &&& h.xstateBv) := by
  simp only [Header.toBeInitialized, Header.compacted, hcomp, if_true]
  refine BitVec.eq_of_getElem_eq fun b hb => ?_
  simp only [BitVec.getElem_or, BitVec.getElem_and, BitVec.getElem_not, Bool.not_and, Bool.and_or_distrib_left]
  exact Bool.or_comm _ _

end Compacted

/-- A header whose XSTATE_BV has no bit outside XCOMP_BV loads what XSTATE_BV says, in both forms. -/
theorem Header.loads_of_subset {h : Header} (hsub : h.xstateBv &&& ~~~h.xcompBv = 0) {b : Nat} (hb : b < 64) :
    h.loads b = h.xstateBv.getLsbD b := by
  have hbit : (h.xstateBv &&& ~~~h.xcompBv).getLsbD b = false := by rw [hsub]; exact BitVec.getLsbD_zero
  rw [BitVec.getLsbD_and, BitVec.getLsbD_not, decide_eq_true hb, Bool.true_and] at hbit
  unfold Header.loads
  cases hx : h.xstateBv.getLsbD b with
  | false => rfl
  | true =>
    have hc : h.xcompBv.getLsbD b = true := by simpa [hx] using hbit
    rw [hc, Bool.or_true, Bool.and_true]

/-- Settles O28: FORMAT AND XSTATE_BV splits RFBM in two. -/
theorem compactedMasks : Obligations.CompactedMasks := by
  intro h rfbm hcomp
  refine ⟨fun b hb => ?_, ?_, ?_, Header.toBeInitialized_compacted hcomp rfbm, ?_, ?_, fun hsub b hb => ?_⟩
  · rw [h.format_getLsbD, decide_eq_true hb, Bool.true_and]
  · exact h.format_getLsbD 63
  · rw [Header.toBeRestored_compacted hcomp, BitVec.and_assoc]
  · rw [Header.toBeRestored_compacted hcomp, Header.toBeInitialized_compacted hcomp, and_and_and_not]
  · rw [Header.toBeRestored_compacted hcomp, Header.toBeInitialized_compacted hcomp, and_or_and_not]
  · rw [h.toBeRestored_getLsbD _ hb, Header.loads_of_subset hsub (by omega)]

/-! ## The x87 state (R87, R93) -/

/-- Settles O29: the masks of the standard form decide for component 0. -/
theorem standardFormSetsTheX87State : Obligations.StandardFormSetsTheX87State := by
  intro i s hs hc hstd
  refine ⟨_, exec_of_completes hs hc, ?_, ?_⟩
  · rw [restoredWith_x87, newX87, Header.toBeRestored_standard hstd, Header.toBeInitialized_standard hstd]
  · rw [restoredWith_xinuse, newXinuse_eq_masks _ _ (by omega), Header.toBeRestored_standard hstd,
      Header.toBeInitialized_standard hstd]

/-- Settles O33: component 0 goes by the bits 0 of RFBM, XCOMP_BV and XSTATE_BV. -/
theorem compactedFormSetsTheX87State : Obligations.CompactedFormSetsTheX87State := by
  intro i s hs hc hcomp
  refine ⟨_, exec_of_completes hs hc, ?_, ?_⟩
  · rw [restoredWith_x87, newX87, Header.ite_masks _ _ (by omega)]
    simp only [Header.loads_compacted hcomp, Bool.and_eq_true]
  · rw [restoredWith_xinuse, newXinuse_eq_loads _ _ (by omega), Header.loads_compacted hcomp]

/-! ## The tracking state (R96, R97, R104) -/

/-- Settles O36: a completed execution leaves `newXrstorInfo` and the complement of RFBM, whatever is requested. -/
theorem trackingStateIsRecorded : Obligations.TrackingStateIsRecorded := by
  intro i s hs hc
  refine ⟨_, exec_of_completes hs hc, fun b hb => ?_, rfl⟩
  rw [restoredWith_xmodifiedBv, BitVec.getLsbD_not, decide_eq_true hb, Bool.true_and]

section NothingRequested

variable {s : State} (hreq : s.rfbm = 0)

include hreq

theorem rfbm_getLsbD_of_eq_zero (k : Nat) : s.rfbm.getLsbD k = false := by
  rw [hreq]
  exact BitVec.getLsbD_zero

theorem newMxcsr_of_rfbm_eq_zero (op : Operand) (h : Header) : newMxcsr s op h = s.mxcsr :=
  newMxcsr_of_not_requested (rfbm_getLsbD_of_eq_zero hreq 1) (.inl (rfbm_getLsbD_of_eq_zero hreq 2))

theorem newComps_of_rfbm_eq_zero (op : Operand) (h : Header) : newComps s op h = s.comps := by
  refine Vector.ext fun k hk => (Vector.getElem_ofFn hk).trans ?_
  exact newComp_of_not_requested _ (by omega) (rfbm_getLsbD_of_eq_zero hreq (k + 2))

theorem newXinuse_of_rfbm_eq_zero (h : Header) : newXinuse s h = s.xinuse :=
  BitVec.eq_of_getLsbD_eq fun k hk => by
    rw [newXinuse_eq_loads _ _ hk, if_pos (rfbm_getLsbD_of_eq_zero hreq k)]

end NothingRequested

/-- Settles O41: of each component nothing is written, and the complement of RFBM is all ones. -/
theorem requestingNothingChangesOnlyTracking : Obligations.RequestingNothingChangesOnlyTracking := by
  intro i s hs hc hreq
  have hbit := rfbm_getLsbD_of_eq_zero hreq
  rw [exec_of_completes hs hc, restoredWith, newX87_of_not_requested _ (hbit 0), newMxcsr_of_rfbm_eq_zero hreq,
    newXmm_of_not_requested (hbit 1), newComps_of_rfbm_eq_zero hreq, newXinuse_of_rfbm_eq_zero hreq, hreq]
  rfl

end Sys2Proof.Machine
end

section
/-! Proofs. The source's OPERATION computes the closed form of the restored state (R82, R86 to R97): what each of its
statements makes of the state the statements before it leave. -/

namespace Sys2Proof.Machine

/-! ## XINUSE, bit by bit (R87 to R95) -/

theorem ite_lt_succ {α : Type} (b n : Nat) (x y : α) :
    (if b < n + 1 then x else y) = if b = n then x else if b < n then x else y := by
  rcases eq_or_ne b n with rfl | hne
  · rw [if_pos b.lt_succ_self, if_pos rfl]
  · rw [if_neg hne, if_congr (Nat.lt_succ_iff_lt_or_eq.trans (or_iff_left hne)) rfl rfl]

/-- XINUSE when the components below `n` have been restored. -/
def xinuseBelow (s : State) (h : Header) (n : Nat) : BitVec 63 :=
  BitVec.ofFnLE fun b => if b.val < n then (newXinuse s h).getLsbD b.val else s.xinuse.getLsbD b.val

theorem xinuseBelow_getLsbD (s : State) (h : Header) (n : Nat) {b : Nat} (hb : b < 63) :
    (xinuseBelow s h n).getLsbD b = if b < n then (newXinuse s h).getLsbD b else s.xinuse.getLsbD b :=
  BitVec.getLsbD_ofFnLE _ b |>.trans (dif_pos hb)

theorem xinuseBelow_zero (s : State) (h : Header) : xinuseBelow s h 0 = s.xinuse :=
  BitVec.eq_of_getLsbD_eq fun b hb => by rw [xinuseBelow_getLsbD s h 0 hb, if_neg b.not_lt_zero]

theorem xinuseBelow_all (s : State) (h : Header) : xinuseBelow s h 63 = newXinuse s h :=
  BitVec.eq_of_getLsbD_eq fun b hb => by rw [xinuseBelow_getLsbD s h 63 hb, if_pos hb]

/-- Restoring component `n` sets or clears its bit alone. -/
theorem xinuseBelow_succ (s : State) (h : Header) {n : Nat} (hn : n < 63) :
    xinuseBelow s h (n + 1) =
      if (h.toBeRestored s.rfbm).getLsbD n then xinuseBelow s h n ||| BitVec.twoPow 63 n
      else if (h.toBeInitialized s.rfbm).getLsbD n then xinuseBelow s h n &&& ~~~(BitVec.twoPow 63 n)
      else xinuseBelow s h n := by
  refine BitVec.eq_of_getLsbD_eq fun b hb => ?_
  rw [xinuseBelow_getLsbD s h (n + 1) hb, ite_lt_succ, ← xinuseBelow_getLsbD s h n hb]
  rcases eq_or_ne b n with rfl | hne
  · have hold : (xinuseBelow s h b).getLsbD b = s.xinuse.getLsbD b := by
      rw [xinuseBelow_getLsbD s h b hb, if_neg b.lt_irrefl]
    rw [if_pos rfl, newXinuse_eq_masks s h hn, ← hold]
    split_ifs <;> simp [hb]
  · rw [if_neg hne]
    split_ifs <;> simp [hb, hne]

/-! ## The components, image by image (R90, R95) -/

/-- COMP when the first `n` components from 2 on have been restored. -/
def firstComps (s : State) (op : Operand) (h : Header) (n : Nat) : Vector (List Byte) 61 :=
  Vector.ofFn fun k => if k.val < n then newComp s op h (k.val + 2) s.comps[k] else s.comps[k]

theorem firstComps_getElem (s : State) (op : Operand) (h : Header) (n : Nat) {k : Nat} (hk : k < 61) :
    (firstComps s op h n)[k] = if k < n then newComp s op h (k + 2) s.comps[k] else s.comps[k] :=
  Vector.getElem_ofFn hk

theorem firstComps_zero (s : State) (op : Operand) (h : Header) : firstComps s op h 0 = s.comps :=
  Vector.ext fun k hk => by rw [firstComps_getElem, if_neg k.not_lt_zero]

theorem firstComps_all (s : State) (op : Operand) (h : Header) : firstComps s op h 61 = newComps s op h :=
  Vector.ext fun k hk => by rw [firstComps_getElem, if_pos hk, newComps, Vector.getElem_ofFn hk]; rfl

/-- Restoring component `n + 2` writes its image alone. -/
theorem firstComps_succ (s : State) (op : Operand) (h : Header) {n : Nat} (hn : n < 61) :
    firstComps s op h (n + 1) =
      if (h.toBeRestored s.rfbm).getLsbD (n + 2) then
        (firstComps s op h n).setIfInBounds n (loadComponent s op h (n + 2))
      else if (h.toBeInitialized s.rfbm).getLsbD (n + 2) then
        (firstComps s op h n).setIfInBounds n (s.platform.ext (n + 2)).init
      else firstComps s op h n := by
  refine Vector.ext fun k hk => ?_
  rw [firstComps_getElem, ite_lt_succ, ← firstComps_getElem s op h n hk]
  rcases eq_or_ne k n with rfl | hne
  · have hold : (firstComps s op h k)[k] = s.comps[k] := by rw [firstComps_getElem, if_neg k.lt_irrefl]
    rw [if_pos rfl, newComp, ← hold]
    split_ifs <;> simp
  · rw [if_neg hne]
    split_ifs <;> simp [hne.symm]

/-! ## The state between two statements -/

/-- The state when the x87 state has been restored. -/
def afterX87 (form : Form) (s : State) (op : Operand) (h : Header) : State :=
  { s with x87 := newX87 form s op h, xinuse := xinuseBelow s h 1 }

/-- The state when x87, MXCSR, the XMM registers and the first `n` components from 2 on have been restored. -/
def afterComponents (form : Form) (s : State) (op : Operand) (h : Header) (n : Nat) : State :=
  { s with
    x87 := newX87 form s op h
    mxcsr := newMxcsr s op h
    xmm := newXmm s op h
    comps := firstComps s op h n
    xinuse := xinuseBelow s h (n + 2) }

/-- One turn of either form's loop, with the image where the closed form has it. -/
theorem afterComponents_succ (form : Form) (s : State) (op : Operand) (h : Header) {n : Nat} (hn : n < 61) :
    afterComponents form s op h (n + 1) =
      if (h.toBeRestored s.rfbm).getLsbD (n + 2) then
        setXinuse (setComp (afterComponents form s op h n) (n + 2) (loadComponent s op h (n + 2))) (n + 2) true
      else if (h.toBeInitialized s.rfbm).getLsbD (n + 2) then
        setXinuse (setComp (afterComponents form s op h n) (n + 2) (s.platform.ext (n + 2)).init) (n + 2) false
      else afterComponents form s op h n := by
  rw [afterComponents, firstComps_succ s op h hn, xinuseBelow_succ s h (show n + 2 < 63 by omega)]
  split_ifs <;> rfl

/-- The common steps after the last component leave the closed form (R96, R97, R99). -/
theorem finish_afterComponents (form : Form) (s : State) (len : Nat) (op : Operand) (h : Header) :
    finish op h s.rfbm len (afterComponents form s op h 61) = restoredWith form s len op h := by
  rw [afterComponents, firstComps_all, xinuseBelow_all]
  rfl

/-- A loop FOR i ← 2 TO 62 whose turns lead from each of `f 0` to `f 61` to the next leads to the last. -/
theorem foldl_components {α : Type} (body : α → Nat → α) (f : Nat → α)
    (hbody : ∀ n, n < 61 → body (f n) (n + 2) = f (n + 1)) : (List.range' 2 61).foldl body (f 0) = f 61 := by
  have hfirst (n : Nat) (hn : n ≤ 61) : (List.range' 2 n).foldl body (f 0) = f n := by
    induction n with
    | zero => rfl
    | succ n ih =>
      rw [List.range'_concat, List.foldl_append, ih (by omega), Nat.one_mul, Nat.add_comm 2 n]
      exact hbody n hn
  exact hfirst 61 (Nat.le_refl 61)

/-! ## The statements before the loop (R87, R88, R89, R93, R94) -/

/-- The branch of component 0. -/
theorem x87Branch_eq (form : Form) (s : State) (op : Operand) (h : Header) :
    x87Branch form op (h.toBeRestored s.rfbm) (h.toBeInitialized s.rfbm) s = afterX87 form s op h := by
  rw [x87Branch, afterX87, newX87, xinuseBelow_succ s h (by omega), xinuseBelow_zero]
  split_ifs <;> rfl

/-- The XMM registers as one of the two forms' branches assigns them. -/
theorem newXmm_eq (s : State) (op : Operand) (h : Header) :
    newXmm s op h =
      if (h.toBeRestored s.rfbm).getLsbD 1 then (setXmm s (loadXmm s op)).xmm
      else if (h.toBeInitialized s.rfbm).getLsbD 1 then (setXmm s (fun _ => 0)).xmm else s.xmm := by
  refine Vector.ext fun j hj => ?_
  have hreg : (newXmm s op h)[j] = newXmmReg s op h j s.xmm[j] := Vector.getElem_ofFn hj
  have hset (v : Nat → BitVec 128) : (setXmm s v).xmm[j] = if s.nxmm ≤ j then s.xmm[j] else v j := by
    simp only [setXmm_xmm, Vector.getElem_ofFn, ← Nat.not_lt, ite_not]
    rfl
  rw [hreg, newXmmReg, apply_ite (·[j]), apply_ite (·[j]), hset, hset]
  split_ifs <;> rfl

section StandardForm

variable {h : Header} (hstd : h.xcompBv.getLsbD 63 = false)

include hstd

theorem newMxcsr_standard (s : State) (op : Operand) :
    newMxcsr s op h = if s.rfbm.getLsbD 1 || s.rfbm.getLsbD 2 then loadMxcsr s op else s.mxcsr := by
  simp only [newMxcsr, Header.loadsMxcsr, Header.compacted, hstd, Bool.false_and, Bool.false_eq_true, if_false]

/-- The standard form's statements on MXCSR and the XMM registers. -/
theorem standardSse_eq (form : Form) (s : State) (op : Operand) :
    standardXmm op (h.toBeRestored s.rfbm) (h.toBeInitialized s.rfbm)
        (standardMxcsr op s.rfbm (afterX87 form s op h)) =
      afterComponents form s op h 0 := by
  rw [afterComponents, firstComps_zero, newXmm_eq, newMxcsr_standard hstd, xinuseBelow_succ s h (show 1 < 63 by omega),
    standardMxcsr, standardXmm]
  split_ifs <;> rfl

/-- One turn of the standard form's loop (R90). -/
theorem standardBody_afterComponents (form : Form) (s : State) (op : Operand) {n : Nat} (hn : n < 61) :
    standardBody op (h.toBeRestored s.rfbm) (h.toBeInitialized s.rfbm) (afterComponents form s op h n) (n + 2) =
      afterComponents form s op h (n + 1) := by
  have hoffset : componentOffset s.platform h (n + 2) = (s.platform.ext (n + 2)).offset := by
    simp only [componentOffset, Header.compacted, hstd, Bool.false_eq_true, if_false]
  rw [afterComponents_succ form s op h hn, loadComponent, hoffset]
  rfl

/-- The standard form, statement after statement. -/
theorem standardForm_eq (form : Form) (s : State) (op : Operand) :
    standardForm form op h s.rfbm s = afterComponents form s op h 61 := by
  rw [standardForm, ← Header.toBeRestored_standard hstd, ← Header.toBeInitialized_standard hstd]
  simp only [x87Branch_eq, standardSse_eq hstd]
  exact foldl_components _ _ fun n hn => standardBody_afterComponents hstd form s op hn

end StandardForm

section CompactedForm

variable {h : Header} (hcomp : h.xcompBv.getLsbD 63 = true)

include hcomp

/-- The compacted form's branch of component 1. -/
theorem compactedSse_eq (form : Form) (s : State) (op : Operand) :
    compactedSse op (h.toBeRestored s.rfbm) (h.toBeInitialized s.rfbm) (afterX87 form s op h) =
      afterComponents form s op h 0 := by
  rw [afterComponents, firstComps_zero, newXmm_eq, newMxcsr_compacted op hcomp,
    xinuseBelow_succ s h (show 1 < 63 by omega), compactedSse]
  split_ifs <;> rfl

/-- Placing a component that FORMAT names: its image lies at its packed offset (R95). -/
theorem compactedPlace_afterComponents (form : Form) (s : State) (op : Operand) (n : Nat) :
    compactedPlace op (h.toBeRestored s.rfbm) (afterComponents form s op h n) (runningOffset s.platform h.format n)
        (n + 2) =
      (if (h.toBeRestored s.rfbm).getLsbD (n + 2) then
        setXinuse (setComp (afterComponents form s op h n) (n + 2) (loadComponent s op h (n + 2))) (n + 2) true
      else afterComponents form s op h n,
      alignFor s.platform (n + 2) (runningOffset s.platform h.format n) + (s.platform.ext (n + 2)).size) := by
  have hoffset : componentOffset s.platform h (n + 2) =
      alignFor s.platform (n + 2) (runningOffset s.platform h.format n) := by
    rw [componentOffset, Header.compacted, if_pos hcomp]
    rfl
  rw [loadComponent, hoffset]
  rfl

/-- One turn of the compacted form's loop, which passes the running offset on: a component that FORMAT does not name is
not restored, and one restored is not initialized (R95). -/
theorem compactedBody_afterComponents (form : Form) (s : State) (op : Operand) {n : Nat} (hn : n < 61) :
    compactedBody op h.format (h.toBeRestored s.rfbm) (h.toBeInitialized s.rfbm)
        (afterComponents form s op h n, runningOffset s.platform h.format n) (n + 2) =
      (afterComponents form s op h (n + 1), runningOffset s.platform h.format (n + 1)) := by
  have htbi := h.toBeInitialized_getLsbD s.rfbm (show n + 2 < 63 by omega)
  have htbr := h.toBeRestored_getLsbD s.rfbm (show n + 2 < 63 by omega)
  have hformat : h.format.getLsbD (n + 2) = h.xcompBv.getLsbD (n + 2) := by
    rw [h.format_getLsbD, decide_eq_true (by omega), Bool.true_and]
  rw [afterComponents_succ form s op h hn, runningOffset, compactedBody, compactedPlace_afterComponents hcomp, hformat]
  cases hplaced : h.xcompBv.getLsbD (n + 2) with
  | false =>
    have hnot : (h.toBeRestored s.rfbm).getLsbD (n + 2) = false := by
      rw [htbr, Header.loads_compacted hcomp, hplaced, Bool.false_and, Bool.and_false]
    simp only [hnot, Bool.false_eq_true, if_false]
    split_ifs <;> rfl
  | true =>
    cases hload : (h.toBeRestored s.rfbm).getLsbD (n + 2) with
    | false =>
      simp only [Bool.false_eq_true, if_true, if_false]
      split_ifs <;> rfl
    | true =>
      have hnot : (h.toBeInitialized s.rfbm).getLsbD (n + 2) = false := by
        rw [htbr, Bool.and_eq_true] at hload
        rw [htbi, hload.2, Bool.not_true, Bool.and_false]
      simp only [hnot, Bool.false_eq_true, if_true, if_false]

/-- The compacted form, statement after statement. -/
theorem compactedForm_eq (form : Form) (s : State) (op : Operand) :
    compactedForm form op h s.rfbm s = afterComponents form s op h 61 := by
  have htbr : h.format &&& s.rfbm &&& h.xstateBv = h.toBeRestored s.rfbm := by
    simp only [Header.toBeRestored, Header.compacted, hcomp, if_true]
  have htbi : s.rfbm &&& ~~~h.xstateBv ||| s.rfbm &&& ~~~h.format = h.toBeInitialized s.rfbm := by
    simp only [Header.toBeInitialized, Header.compacted, hcomp, if_true]
  rw [compactedForm, ← Header.format]
  simp only [htbr, htbi, x87Branch_eq, compactedSse_eq hcomp]
  exact congrArg Prod.fst (foldl_components _
    (fun n => (afterComponents form s op h n, runningOffset s.platform h.format n))
    fun n hn => compactedBody_afterComponents hcomp form s op hn)

end CompactedForm

/-! ## The OPERATION (R82) -/

/-- Settles O4: either form leaves the state after the last component, and the common steps the closed form. -/
theorem restoredStateIsTheSourceOperation : Obligations.RestoredStateIsTheSourceOperation := by
  intro form s i
  rw [operation, restored, ← finish_afterComponents, ← State.rfbm]
  cases hform : (readHeader s (operandOf s i)).xcompBv.getLsbD 63 with
  | false => simp only [if_true, standardForm_eq hform]
  | true => simp only [Bool.true_eq_false, if_false, compactedForm_eq hform]

/-- Where everything R161 asks for holds, an execution leaves the state of the OPERATION. -/
theorem exec_eq_operation_of_completes {i : Instr} {s : State} (hs : Supported s i) (hc : Completes s i) :
    exec i s = .next (operation (formOf i) s i) := by
  rw [exec_of_completes hs hc, restoredStateIsTheSourceOperation]
  rfl

/-- Settles O1: every mode has XRSTOR. -/
theorem xrstorCompletesWithTheSourceOperation : Obligations.XrstorCompletesWithTheSourceOperation :=
  fun ps rex m _ hc => exec_eq_operation_of_completes (i := .xrstor ps rex m) trivial hc

/-- Settles O2: 64-bit mode has XRSTOR64. -/
theorem xrstorSixtyFourCompletesWithTheSourceOperation : Obligations.XrstorSixtyFourCompletesWithTheSourceOperation :=
  fun ps q m _ hmode hc => exec_eq_operation_of_completes (i := .xrstor64 ps q m) hmode hc

end Sys2Proof.Machine
end

section
/-! Proofs. Which exception comes first (R120 to R140): #UD, then #NM, then the operand's own, each one of the mode's
list; of the operand's, the reach of the header, then its content. -/

namespace Sys2Proof.Machine

/-! ## The conditions behind #UD and #NM -/

/-- The conditions that depend on the operand: steps 3 to 8 of R140. -/
def operandConditions (s : State) (op : Operand) : List (Option Fault) :=
  [addressFault s op headerImage, alignmentFault s op, pageFault s op headerImage, headerFault s (readHeader s op)] ++
    imageFaults s op (readHeader s op) ++ [mxcsrFault s op (readHeader s op)]

theorem faultConditions_eq_cons (s : State) (i : Instr) (op : Operand) :
    faultConditions s i op = udFault s i :: nmFault s :: operandConditions s op := rfl

/-- What holds of every exception that the operand raises: it is neither #UD nor #NM, and the mode's list has it. -/
structure OperandFault (s : State) (f : Fault) : Prop where
  ne_ud : f ≠ .ud
  ne_nm : f ≠ .nm
  listed : s.mode.lists f = true

/-- Outside real-address mode #SS(0), #GP(0), #AC(0) and every #PF are listed (R139). -/
theorem Mode.lists_of_ne_real {m : Mode} (hm : m ≠ .real) : m.lists (.ss 0) = true ∧ m.lists (.gp (some 0)) = true ∧
    m.lists (.ac 0) = true ∧ ∀ code la, m.lists (.pf code la) = true := by
  cases m with
  | real => exact absurd rfl hm
  | prot | v86 | compat | long64 => exact ⟨rfl, rfl, rfl, fun _ _ => rfl⟩

theorem operandFault_modeGp (s : State) : OperandFault s (modeGp s) := by
  refine ⟨nofun, nofun, ?_⟩
  unfold modeGp
  cases s.mode <;> rfl

theorem operandFault_modeReach (s : State) (i : Instr) : OperandFault s (modeReach s i) := by
  unfold modeReach
  split_ifs with hmode hseg
  · exact ⟨nofun, nofun, hmode ▸ rfl⟩
  · obtain ⟨hlisted, -⟩ := Mode.lists_of_ne_real hmode
    exact ⟨nofun, nofun, hlisted⟩
  · obtain ⟨-, hlisted, -⟩ := Mode.lists_of_ne_real hmode
    exact ⟨nofun, nofun, hlisted⟩

/-- #AC arises outside real-address mode only (R130). -/
theorem operandFault_misalignedFault (s : State) (op : Operand) : OperandFault s (misalignedFault s op) := by
  rw [misalignedFault_eq]
  split_ifs with hac
  · obtain ⟨-, -, hlisted, -⟩ := Mode.lists_of_ne_real hac.1
    exact ⟨nofun, nofun, hlisted⟩
  · exact operandFault_modeGp s

/-- #PF arises outside real-address mode only (R139). -/
theorem operandFault_of_bytePageFault {s : State} {op : Operand} {o : Nat} {f : Fault}
    (hf : bytePageFault s op o = some f) : OperandFault s f := by
  obtain ⟨code, htranslate, rfl⟩ := bytePageFault_eq_some_iff.mp hf
  have hmode : s.mode ≠ .real := fun hmode => by simp [translate_real hmode] at htranslate
  obtain ⟨-, -, -, hlisted⟩ := Mode.lists_of_ne_real hmode
  exact ⟨nofun, nofun, hlisted code _⟩

/-- The reach of an image and its page faults (R124 to R128, R131). -/
theorem operandFault_of_image {s : State} {i : Instr} {image : List Nat} {f : Fault}
    (hf : addressFault s (operandOf s i) image = some f ∨ pageFault s (operandOf s i) image = some f) :
    OperandFault s f := by
  rcases hf with haddress | hpage
  · rw [(addressFault_eq_some haddress).1, addressException_operandOf]
    exact operandFault_modeReach s i
  · obtain ⟨o, -, hbyte⟩ := pageFault_eq_some hpage
    exact operandFault_of_bytePageFault hbyte

/-- #GP for the header's content is the mode's. -/
theorem headerFault_eq_some {s : State} {h : Header} {f : Fault} (hf : headerFault s h = some f) : f = modeGp s := by
  obtain ⟨-, hgp⟩ := Option.ite_none_right_eq_some.mp hf
  exact (Option.some.inj hgp).symm.trans (gpFault_eq_modeGp s)

/-- Condition by condition, in the order of R140. -/
theorem operandFault_of_mem {s : State} {i : Instr} {f : Fault}
    (hmem : some f ∈ operandConditions s (operandOf s i)) : OperandFault s f := by
  simp only [operandConditions, imageFaults, List.mem_append, List.mem_cons, List.not_mem_nil, or_false,
    List.mem_flatMap] at hmem
  rcases hmem with ((haddress | halign | hpage | hcontent) | ⟨image, -, hf⟩) | hmxcsr
  · exact operandFault_of_image (.inl haddress.symm)
  · obtain ⟨-, hf⟩ := Option.some_eq_ite_none_left.mp halign
    exact Option.some.inj hf ▸ operandFault_misalignedFault s (operandOf s i)
  · exact operandFault_of_image (.inr hpage.symm)
  · exact headerFault_eq_some hcontent.symm ▸ operandFault_modeGp s
  · exact operandFault_of_image (hf.imp Eq.symm Eq.symm)
  · rw [mxcsrFault_eq] at hmxcsr
    obtain ⟨-, hf⟩ := Option.some_eq_ite_none_right.mp hmxcsr
    exact Option.some.inj hf ▸ operandFault_modeGp s

/-! ## The first two steps (R140) -/

section FirstSteps

variable {s : State} {i : Instr}

/-- Where a condition of #UD holds it is the first. -/
theorem restoreFault_of_not_noUd (hud : ¬ NoUd s i) : restoreFault s i = some .ud := by
  obtain ⟨f, hf⟩ := Option.ne_none_iff_exists'.mp fun hnone : udFault s i = none => hud (udFault_eq_none_iff.mp hnone)
  obtain ⟨-, hff⟩ := Option.ite_none_right_eq_some.mp hf
  rw [restoreFault, faultConditions_eq_cons, hf, firstFault_cons_some, hff]

/-- Past #UD a set CR0.TS is the first condition. -/
theorem restoreFault_of_ts (hud : NoUd s i) (hts : s.cr0.getLsbD 3 = true) : restoreFault s i = some .nm := by
  have hnm : nmFault s = some .nm := if_pos hts
  rw [restoreFault, faultConditions_eq_cons, udFault_eq_none_iff.mpr hud, hnm, firstFault_cons_none,
    firstFault_cons_some]

/-- Past #UD and #NM the operand decides. -/
theorem restoreFault_of_ts_clear (hud : NoUd s i) (hts : s.cr0.getLsbD 3 = false) :
    restoreFault s i = firstFault (operandConditions s (operandOf s i)) := by
  rw [restoreFault, faultConditions_eq_cons, udFault_eq_none_iff.mpr hud, nmFault_eq_none_iff.mpr hts,
    firstFault_cons_none, firstFault_cons_none]

/-- Why an execution raises an exception, by the first step of R140 that does not pass. -/
theorem restoreFault_eq_some_cases {f : Fault} (hf : restoreFault s i = some f) :
    (¬ NoUd s i ∧ f = .ud) ∨ (NoUd s i ∧ s.cr0.getLsbD 3 = true ∧ f = .nm) ∨
      (NoUd s i ∧ s.cr0.getLsbD 3 = false ∧ OperandFault s f) := by
  by_cases hud : NoUd s i
  · cases hts : s.cr0.getLsbD 3 with
    | true => exact .inr (.inl ⟨hud, rfl, Option.some.inj (hf.symm.trans (restoreFault_of_ts hud hts))⟩)
    | false =>
      rw [restoreFault_of_ts_clear hud hts] at hf
      exact .inr (.inr ⟨hud, rfl, operandFault_of_mem (firstFault_mem hf)⟩)
  · exact .inl ⟨hud, Option.some.inj (hf.symm.trans (restoreFault_of_not_noUd hud))⟩

theorem exec_ud_iff (hs : Supported s i) : exec i s = .fault .ud ↔ ¬ NoUd s i := by
  refine ⟨fun hexec => ?_, fun hud => exec_fault_iff.mpr ⟨hs, restoreFault_of_not_noUd hud⟩⟩
  rcases restoreFault_eq_some_cases (exec_fault_iff.mp hexec).2 with ⟨hud, -⟩ | ⟨-, -, hnm⟩ | ⟨-, -, hop⟩
  · exact hud
  · exact Fault.noConfusion hnm
  · exact absurd rfl hop.ne_ud

/-- One of the three conditions of #UD holds (R120, R121, R122). -/
theorem not_noUd_iff : ¬ NoUd s i ↔
    Prefix.lock ∈ i.prefixes ∨ s.cr4.getLsbD 18 = false ∨ s.platform.cpuidXsave = false := by
  simp only [NoUd, not_and_or, not_not, Bool.not_eq_true, or_comm (a := s.platform.cpuidXsave = false)]

end FirstSteps

/-- Settles O47: #UD is the first step, and no later condition raises it. -/
theorem udExactlyWhen : Obligations.UdExactlyWhen :=
  fun _ _ hs => (exec_ud_iff hs).trans not_noUd_iff

/-- Settles O48: #NM is the second step, and no other condition raises it. -/
theorem nmExactlyWhen : Obligations.NmExactlyWhen := by
  intro i s hs
  refine ⟨fun hexec => ?_, fun ⟨hud, hts⟩ => exec_fault_iff.mpr ⟨hs, restoreFault_of_ts hud hts⟩⟩
  rcases restoreFault_eq_some_cases (exec_fault_iff.mp hexec).2 with ⟨-, hud⟩ | ⟨hud, hts, -⟩ | ⟨-, -, hop⟩
  · exact Fault.noConfusion hud
  · exact ⟨hud, hts⟩
  · exact absurd rfl hop.ne_nm

/-- Settles O56: every mode lists #UD and #NM, and what the operand raises is listed. -/
theorem exceptionsAreTheModesOwn : Obligations.ExceptionsAreTheModesOwn := by
  intro i s f hexec
  rcases restoreFault_eq_some_cases (exec_fault_iff.mp hexec).2 with ⟨-, rfl⟩ | ⟨-, -, rfl⟩ | ⟨-, -, hop⟩
  · cases s.mode <;> rfl
  · cases s.mode <;> rfl
  · exact hop.listed

/-! ## The header out of reach (R124 to R128) -/

/-- An image with a byte out of reach has the mode's address exception. -/
theorem addressFault_of_outOfReach {s : State} {i : Instr} {image : List Nat} {o : Nat} (ho : o ∈ image)
    (hout : OutOfReach s i o) : addressFault s (operandOf s i) image = some (modeReach s i) := by
  have hbyte := byteAddressable_eq_false_iff.mpr hout
  rw [addressFault, if_neg fun hall => by simp [List.all_eq_true.mp hall o ho] at hbyte, addressException_operandOf]

/-- Settles O49: past #UD and #NM the reach of the header is the first condition. -/
theorem headerOutOfReachFaults : Obligations.HeaderOutOfReachFaults := by
  intro i s o hs hud hts hlo hhi hout
  have haddress := addressFault_of_outOfReach (image := headerImage) (mem_span.mpr ⟨hlo, hhi⟩) hout
  refine exec_fault_iff.mpr ⟨hs, ?_⟩
  rw [restoreFault_of_ts_clear hud hts, operandConditions, haddress]
  rfl

/-! ## The header's content (R132 to R137) -/

/-- Once the header has been read, one that its form does not accept raises #GP. -/
theorem exec_gp_of_not_headerOk {i : Instr} {s : State} (hs : Supported s i) (hread : HeaderRead s i)
    (hbad : ¬ HeaderOk s i) : exec i s = .fault (modeGp s) := by
  have hpage : pageFault s (operandOf s i) headerImage = none := (header_readable_iff.mpr hread.readable).2
  obtain ⟨f, hf⟩ := Option.ne_none_iff_exists'.mp fun hnone : headerFault s (headerOf s i) = none =>
    hbad (headerFault_eq_none_iff.mp hnone)
  refine exec_fault_iff.mpr ⟨hs, ?_⟩
  rw [restoreFault_of_header_in_reach hread.no_ud hread.ts_clear (fun o hlo hhi => (hread.readable o hlo hhi).1)
    hread.aligned, hpage, hf, firstFault_cons_none, firstFault_cons_some, headerFault_eq_some hf]

/-- Settles O53: either condition contradicts what the standard form accepts. -/
theorem standardHeaderFaults : Obligations.StandardHeaderFaults := by
  intro i s hs hread hstd hbad
  refine exec_gp_of_not_headerOk hs hread fun hok => ?_
  obtain ⟨hxstate, hzero⟩ := hok.1 hstd
  rcases hbad with ⟨b, hb, hset, hclear⟩ | ⟨o, hlo, hhi, hne⟩
  · exact Bool.noConfusion ((hxstate b hb hset).symm.trans hclear)
  · exact hne (hzero o hlo hhi)

/-- Settles O54: each of the four conditions contradicts what the compacted form accepts. -/
theorem compactedHeaderFaults : Obligations.CompactedHeaderFaults := by
  intro i s hs hread hcomp hbad
  refine exec_gp_of_not_headerOk hs hread fun hok => ?_
  obtain ⟨hxsavec, hxcomp, hxstate, hzero⟩ := hok.2 hcomp
  rcases hbad with hno | ⟨b, hb, hset, hclear⟩ | ⟨b, hb, hset, hclear⟩ | ⟨o, hlo, hhi, hne⟩
  · exact Bool.noConfusion (hxsavec.symm.trans hno)
  · exact Bool.noConfusion ((hxcomp b hb hset).symm.trans hclear)
  · exact Bool.noConfusion ((hxstate b hb hset).symm.trans hclear)
  · exact hne (hzero o hlo hhi)

end Sys2Proof.Machine
end
